-- ==== Sys2Proof/Word.lean ====
section
/-! DEFINITION. The words, bytes and fixed groups of registers of the SHA-1/HMAC core (R5, R7, R9). -/

namespace Sys2Proof

/-- A byte: 8 bits (R9). -/
abbrev Byte := BitVec 8

/-- A word: 32 bits, unsigned (R5, R7). -/
abbrev Word := BitVec 32

/-- A byte string: a finite sequence of bytes indexed from 0 (R9). -/
abbrev Bytes := List Byte

/-- A block: 64 bytes (R5; 00_scope.md §5). -/
abbrev Block := Vector Byte 64

/-- The chaining state H[0..4], H[0] first (R21). -/
abbrev Chain := Vector Word 5

/-- Sixteen words: the schedule window WS (R23), the block buffer BLK (R25). -/
abbrev Words16 := Vector Word 16

/-- The five working registers A, B, C, D, E (R22). -/
structure Work where
  a : Word
  b : Word
  c : Word
  d : Word
  e : Word
deriving DecidableEq, Repr

end Sys2Proof
end

