-- ==== Sys2Proof/Syntax.lean ====
section
/-! DEFINITION. The commands: one constructor per row of spec/opcode_table.json (R82). Each carries its
operand N (R81), 0..127: a word whose N is out of range still decodes (R90), and its issue is rejected
(R86), so N stays in the syntax of every command. -/

namespace Sys2Proof

/-- A command that decodes (R90). -/
inductive Instr where
  /-- INIT, OP 0x01: start a new SHA-1 message (R113). -/
  | init (n : BitVec 7)
  /-- PROCESS, OP 0x02: compress one full block (R114). -/
  | process (n : BitVec 7)
  /-- FINAL n, OP 0x03: hash the last n bytes, pad, and finish the digest (R115). -/
  | final (n : BitVec 7)
  /-- KEYLOAD n, OP 0x04: load a key of n bytes (R154). -/
  | keyload (n : BitVec 7)
  /-- KEYDIG, OP 0x05: load the finished digest as the key (R155). -/
  | keydig (n : BitVec 7)
  /-- HMAC_INNER, OP 0x06: start the inner hash (R156). -/
  | hmacInner (n : BitVec 7)
  /-- HMAC_OUTER, OP 0x07: finish the tag from the inner digest (R157). -/
  | hmacOuter (n : BitVec 7)
  /-- CLRERR, OP 0x08: clear the error latch (R184). -/
  | clrerr (n : BitVec 7)
  /-- SRESET, OP 0x09: software reset (R185). -/
  | sreset (n : BitVec 7)
deriving DecidableEq, Repr

end Sys2Proof
end

