-- ==== Sys2Proof/WellFormed.lean ====
section
/-! DEFINITION. Well-formed commands: those whose operand N is in the range of the opcode map (R82). -/

namespace Sys2Proof.Instr

/-- The operand N of a command (R81). -/
def count : Instr → BitVec 7
  | .init n | .process n | .final n | .keyload n | .keydig n
  | .hmacInner n | .hmacOuter n | .clrerr n | .sreset n => n

/-- The N column of the opcode map (R82, R83, R84): 0..64 for FINAL and KEYLOAD, else 0. -/
def wellFormed : Instr → Bool
  | .final n | .keyload n => decide (n.toNat ≤ 64)
  | .init n | .process n | .keydig n | .hmacInner n | .hmacOuter n
  | .clrerr n | .sreset n => n == 0

end Sys2Proof.Instr
end

