-- ==== Sys2Proof/Decode.lean ====
section
/-! DEFINITION. The command word format CMDW (R81), the decoder (R90) and the encoder (R81, R82). -/

namespace Sys2Proof

/-- OP = c[7:0] (R81). -/
def opField (c : Word) : Byte := c.extractLsb' 0 8

/-- N = c[14:8] (R81). -/
def countField (c : Word) : BitVec 7 := c.extractLsb' 8 7

/-- RSV = c[31:15] (R81). -/
def rsvField (c : Word) : BitVec 17 := c.extractLsb' 15 17

/-- Why a command word is illegal: the three cases of R85. -/
inductive IllegalWord where
  /-- RSV != 0. -/
  | reservedBits
  /-- OP = 0x00. -/
  | opZero
  /-- 0x0A <= OP <= 0xFF. -/
  | opUnassigned
deriving DecidableEq, Repr

/-- What decoding a word gives (R90): a command, or Illegal with the reason. -/
inductive Decoded where
  | cmd (i : Instr)
  | illegal (why : IllegalWord)
deriving DecidableEq, Repr

/-- The opcode map (R82). -/
def decodeOp (op : Byte) (n : BitVec 7) : Decoded :=
  match op.toNat with
  | 0x00 => .illegal .opZero
  | 0x01 => .cmd (.init n)
  | 0x02 => .cmd (.process n)
  | 0x03 => .cmd (.final n)
  | 0x04 => .cmd (.keyload n)
  | 0x05 => .cmd (.keydig n)
  | 0x06 => .cmd (.hmacInner n)
  | 0x07 => .cmd (.hmacOuter n)
  | 0x08 => .cmd (.clrerr n)
  | 0x09 => .cmd (.sreset n)
  | _ => .illegal .opUnassigned

/-- R90: total on every 32-bit word; N is not checked here. -/
def decode (c : Word) : Decoded :=
  if rsvField c = 0 then decodeOp (opField c) (countField c) else .illegal .reservedBits

/-- The operation code of a command (R82). -/
def opcode : Instr → Byte
  | .init _ => 0x01
  | .process _ => 0x02
  | .final _ => 0x03
  | .keyload _ => 0x04
  | .keydig _ => 0x05
  | .hmacInner _ => 0x06
  | .hmacOuter _ => 0x07
  | .clrerr _ => 0x08
  | .sreset _ => 0x09

/-- `cmdword(op, n) = zext_32(op) | (n << 8)` (R81). -/
def cmdword (op : Byte) (n : BitVec 7) : Word :=
  op.setWidth 32 ||| (n.setWidth 32 <<< 8)

/-- The word of a command (R81, R82). -/
def encode (i : Instr) : Word := cmdword (opcode i) i.count

/-- The command the decoder reads from an opcode-table word of `nbits` bits. A command is one 32-bit
bus word (R80), bit 0 its least significant bit, so the table's numbering is the word's own (log 14). -/
def decodeTableWord (nbits w : Nat) : Option Instr :=
  match decode (BitVec.ofNat 32 (w % 2 ^ nbits)) with
  | .cmd i => some i
  | .illegal _ => none

end Sys2Proof
end

