-- ==== Sys2Proof/Config.lean ====
section
/-! DEFINITION. The parameters of 00_scope.md §3: the fixed ones (R5, R6), and the two OPEN parameters
of R6, which are constants with no body: nothing can be proved of their values. -/

namespace Sys2Proof.Config

/-- The size of the register window in bytes (R6, R40). -/
abbrev windowBytes : Nat := 256

/-- The number of rounds, and of schedule words, per block (R5). -/
abbrev rounds : Nat := 80

/-- The block size in bytes, also the key size and the largest tail (R5, R83). -/
abbrev blockBytes : Nat := 64

/-- The depth of the job queue in blocks (R6, R27). -/
abbrev queueDepth : Nat := 2

/-- Which 256-byte slot of the bus address space holds the register window: OPEN (R6, R40, U9), so
left free. DESIGN CHOICE (log 3): bus addresses are natural numbers, of no fixed width. Safe. -/
opaque sha1Slot : Nat

/-- `SHA1_BASE`: any address aligned to 256 bytes (R6, R40). -/
def sha1Base : Nat := windowBytes * sha1Slot

/-- `SHA1_IRQ_ROUTE`: the host interrupt input the irq line goes to: OPEN (R6, R211, U10), so left
free. DESIGN CHOICE (log 4): interrupt inputs are numbered by natural numbers. Safe. -/
opaque sha1IrqRoute : Nat

end Sys2Proof.Config
end

