-- ==== Sys2Proof/Machine/BusSyntax.lean ====
section
/-! DEFINITION. What the agents outside the core can do: host accesses and waits, turns, and the
register map of the window (R12, R40, R53 to R55, R89). -/

namespace Sys2Proof.Machine

/-- The size of a host access. The interface defines the 32-bit word alone; the others exist so that
the model can refuse them (R55). -/
inductive AccessSize where
  | byte
  | half
  | word
  | burst
deriving DecidableEq, Repr

/-- Where a host access goes: an offset in the register window (R53, R54), or a bus address, which
lies in the window when it is at `SHA1_BASE` plus an offset (R40). -/
inductive BusAddr where
  | offset (off : Nat)
  | absolute (addr : Nat)
deriving DecidableEq, Repr

/-- One operation of the host. -/
inductive HostOp where
  /-- `RD`: one bus read (R53, R88). -/
  | rd (size : AccessSize) (addr : BusAddr)
  /-- `WR`: one bus write (R54, R88). -/
  | wr (size : AccessSize) (addr : BusAddr) (v : Word)
  /-- `POLL`: read STATUS until bit 0 is 0 (R61, R89). -/
  | poll
  /-- Wait until the irq line is asserted (R61, R235). DESIGN CHOICE (log 5): a turn of the host that
  finds irq low changes nothing. Safe. -/
  | waitIrq
deriving DecidableEq, Repr

/-- Who takes a step: the host, the core (R12), or the platform asserting the reset input (R230). -/
inductive Turn where
  | host
  | core
  | resetInput
deriving DecidableEq, Repr

/-- The registers of the window (R40). -/
inductive Reg where
  | id
  | cmd
  | status
  | inten
  | mlenLo
  | mlenHi
  | blk (i : Fin 16)
  | digest (i : Fin 5)
  | reserved (off : Nat)
deriving DecidableEq, Repr

/-- The offset of a register (R40). -/
def regOffset : Reg → Nat
  | .id => 0x00
  | .cmd => 0x04
  | .status => 0x08
  | .inten => 0x0C
  | .mlenLo => 0x10
  | .mlenHi => 0x14
  | .blk i => 0x40 + 4 * i.val
  | .digest i => 0x80 + 4 * i.val
  | .reserved off => off

/-- The register at a word-aligned offset of the window (R40). -/
def regAt (off : Nat) : Reg :=
  if off = 0x00 then .id
  else if off = 0x04 then .cmd
  else if off = 0x08 then .status
  else if off = 0x0C then .inten
  else if off = 0x10 then .mlenLo
  else if off = 0x14 then .mlenHi
  else if h : 0x40 ≤ off ∧ off < 0x80 then .blk ⟨(off - 0x40) / 4, by omega⟩
  else if h : 0x80 ≤ off ∧ off < 0x94 then .digest ⟨(off - 0x80) / 4, by omega⟩
  else .reserved off

/-- The offset a bus address has from `SHA1_BASE`; none below it (R40). -/
def busOffset : BusAddr → Option Nat
  | .offset off => some off
  | .absolute addr => if Config.sha1Base ≤ addr then some (addr - Config.sha1Base) else none

/-- The window offset of an access the interface defines, and none for any other (R13, R55): a 32-bit
access at a multiple of 4 inside the window. -/
def windowOffset (size : AccessSize) (addr : BusAddr) : Option Nat :=
  match size, busOffset addr with
  | .word, some off => if off % 4 = 0 ∧ off < Config.windowBytes then some off else none
  | _, _ => none

end Sys2Proof.Machine
end

