-- ==== Sys2Proof/Machine/Bytes.lean ====
section
/-! DEFINITION. Byte strings, big-endian conversions and word operations (R8, R9, R10, R52, R57, R58). -/

namespace Sys2Proof

/-- `rotl_s(x)` for 0 < s < 32 (R8). -/
def rotl (s : Nat) (x : Word) : Word := (x <<< s) ||| (x >>> (32 - s))

/-- `zeros(n)` (R9). -/
def zeros (n : Nat) : Bytes := List.replicate n 0

/-- `BE32` of the four bytes s[0], s[1], s[2], s[3]: `s[0]*2^24 + s[1]*2^16 + s[2]*2^8 + s[3]` (R10). -/
def be32 (s0 s1 s2 s3 : Byte) : Word :=
  (s0.setWidth 32 <<< 24) ||| (s1.setWidth 32 <<< 16) ||| (s2.setWidth 32 <<< 8) ||| s3.setWidth 32

/-- Byte j of a word counted from the most significant, `w[31-8j : 24-8j]` (R10, R52). -/
def wordByte (w : Word) (j : Nat) : Byte := w.extractLsb' (24 - 8 * j) 8

/-- `bytes32(w)`, most significant byte first (R10). -/
def bytes32 (w : Word) : Bytes := [wordByte w 0, wordByte w 1, wordByte w 2, wordByte w 3]

/-- `bytes64(v)`, most significant byte first (R10, R58). -/
def bytes64 (v : BitVec 64) : Bytes :=
  bytes32 (v.extractLsb' 32 32) ++ bytes32 (v.extractLsb' 0 32)

/-- The block whose bytes are those of `s`, with zero bytes after them where `s` is short. -/
def blockOf (s : Bytes) : Block := Vector.ofFn fun i => s.getD i 0

/-- The 64-byte blocks of a byte string whose length is a multiple of 64, in order (R102, R103). -/
def blocksOf (s : Bytes) : List Block :=
  (List.range (s.length / 64)).map fun j => blockOf ((s.drop (64 * j)).take 64)

/-- `b xor rep(m, 64)` (R9, R152). -/
def maskBlock (b : Block) (m : Byte) : Block := Vector.ofFn fun i => b[i] ^^^ m

/-- `BE32(b[4j..4j+4))`, word j of a block (R105, R120). -/
def blockWord (b : Block) (j : Fin 16) : Word :=
  be32 b[4 * j.val] b[4 * j.val + 1] b[4 * j.val + 2] b[4 * j.val + 3]

/-- The sixteen words of a block (R105, R120). -/
def blockWords (b : Block) : Words16 := Vector.ofFn (blockWord b)

/-- `blk_bytes`: the block the sixteen words of BLK hold, byte 4i the most significant of word i (R52). -/
def bytesOfWords (ws : Words16) : Block :=
  Vector.ofFn fun i => wordByte (ws[i.val / 4]) (i.val % 4)

/-- `digest_bytes(H)` (R57). -/
def digestBytes (h : Chain) : Bytes :=
  bytes32 h[0] ++ bytes32 h[1] ++ bytes32 h[2] ++ bytes32 h[3] ++ bytes32 h[4]

end Sys2Proof
end

