-- ==== Sys2Proof/Machine/Sha1.lean ====
section
/-! DEFINITION. The SHA-1 function of 40_sha1.md Part 1 (R101 to R111). The round functions, the round
constants and the round update (R106 to R108) are supplied by the spec from general knowledge (log 8).
The core's round step calls `round`; the rest is what the core's jobs are measured against. -/

namespace Sys2Proof

/-- `L(m)`, the bit length modulo 2^64 (R101; the full 64-bit field, C3, log 9). -/
def bitLength (m : Bytes) : BitVec 64 := BitVec.ofNat 64 (8 * m.length)

/-- `(55 - len) mod 64`, the number of zero bytes of the padding (R102, R103). -/
def padZeros (len : Nat) : Nat := (119 - len % 64) % 64

/-- `padtail(s, Lb)` (R103). -/
def padtail (s : Bytes) (lb : BitVec 64) : Bytes :=
  s ++ [0x80] ++ zeros (padZeros s.length) ++ bytes64 lb

/-- `pad(m)` (R102). -/
def pad (m : Bytes) : Bytes := padtail m (bitLength m)

/-- The initial value of the chaining state (R104). -/
def iv : Chain := #v[0x67452301, 0xEFCDAB89, 0x98BADCFE, 0x10325476, 0xC3D2E1F0]

/-- The next schedule word from a list of at least sixteen, newest first: `W_{j-3}`, `W_{j-8}`,
`W_{j-14}` and `W_{j-16}` stand at positions 2, 7, 13 and 15 (R105). -/
def nextSched (ws : List Word) : Word :=
  rotl 1 (ws.getD 2 0 ^^^ ws.getD 7 0 ^^^ ws.getD 13 0 ^^^ ws.getD 15 0)

/-- The first 16 + k schedule words of a block, newest first (R105). -/
def schedRev (b : Block) : Nat → List Word
  | 0 => (blockWords b).toList.reverse
  | k + 1 => nextSched (schedRev b k) :: schedRev b k

/-- The message schedule W_0 .. W_79 of a block (R105). -/
def schedule (b : Block) : List Word := (schedRev b (Config.rounds - 16)).reverse

/-- `W_j` of a block (R105), for j < 80. -/
def schedWord (b : Block) (j : Nat) : Word := (schedule b).getD j 0

/-- `f(t, x, y, z)`: Ch, Parity, Maj, Parity in bands of twenty rounds (R106). -/
def roundFn (t : Nat) (x y z : Word) : Word :=
  if t < 20 then (x &&& y) ||| (~~~x &&& z)
  else if t < 40 then x ^^^ y ^^^ z
  else if t < 60 then (x &&& y) ||| (x &&& z) ||| (y &&& z)
  else x ^^^ y ^^^ z

/-- `K(t)` (R107). -/
def roundK (t : Nat) : Word :=
  if t < 20 then 0x5A827999
  else if t < 40 then 0x6ED9EBA1
  else if t < 60 then 0x8F1BBCDC
  else 0xCA62C1D6

/-- The round update (R108). -/
def round (t : Nat) (w : Work) (x : Word) : Work :=
  { a := rotl 5 w.a + roundFn t w.b w.c w.d + w.e + roundK t + x
    b := w.a
    c := rotl 30 w.b
    d := w.c
    e := w.d }

/-- The working registers at the start of a block: the chaining state (R109, R120; C2). -/
def workOf (h : Chain) : Work := { a := h[0], b := h[1], c := h[2], d := h[3], e := h[4] }

/-- The chaining state after a block: the working registers added in, modulo 2^32 (R109, R123). -/
def addWork (h : Chain) (w : Work) : Chain :=
  #v[h[0] + w.a, h[1] + w.b, h[2] + w.c, h[3] + w.d, h[4] + w.e]

/-- The working registers after the first k rounds of a block started from `h` (R109). -/
def workAfter (h : Chain) (b : Block) : Nat → Work
  | 0 => workOf h
  | k + 1 => round k (workAfter h b k) (schedWord b k)

/-- `compress(H, b)` (R109). -/
@[irreducible] def compress (h : Chain) (b : Block) : Chain := addWork h (workAfter h b Config.rounds)

/-- `SHA1(m)` (R110, R111). -/
def sha1 (m : Bytes) : Bytes := digestBytes ((blocksOf (pad m)).foldl compress iv)

end Sys2Proof
end

