-- ==== Sys2Proof/Machine/State.lean ====
section
/-! DEFINITION. The state of one core (R20) and of its environment, and the state after reset (R49). -/

namespace Sys2Proof.Machine

/-- The error codes a rejection can record (R201). -/
inductive ErrCode where
  /-- Code 1 (R202). -/
  | illegal
  /-- Code 2 (R203). -/
  | busy
  /-- Code 3 (R204). -/
  | badlen
  /-- Code 4 (R205). -/
  | seq
deriving DecidableEq, Repr

/-- The complete state of one core: the tuple of R20, with the widths of R21 to R34. -/
structure CoreState where
  /-- H[0..4] (R21). -/
  h : Chain
  /-- A, B, C, D, E (R22). -/
  w : Work
  /-- WS[0..15] (R23). -/
  ws : Words16
  /-- t (R24): 7 bits, 0..79 in every state a run reaches. -/
  t : BitVec 7
  /-- Q, the block being compressed first (R27). -/
  q : List Block
  /-- FIN (R29). -/
  fin : Bool
  /-- BLK[0..15] (R25). -/
  blk : Words16
  /-- K (R26). -/
  k : Block
  /-- MLEN (R30). -/
  mlen : BitVec 64
  /-- DVALID (R31). -/
  dvalid : Bool
  /-- DONE (R32). -/
  done : Bool
  /-- ERR (R33). -/
  err : Bool
  /-- ERRCODE (R33). -/
  errcode : BitVec 4
  /-- INTEN (R34): bit 0 DONE_IE, bit 1 ERR_IE. -/
  inten : BitVec 2
deriving DecidableEq, Repr

/-- The core and the inputs of the agents around it. `prog`, `turns` and `reads` are the model's own
fields (DESIGN CHOICE, log 1; safe): the host's accesses in the order it issues them (R60), the
interleaving that R12 leaves open, and the values the host's reads returned. -/
structure State where
  /-- The core (R20). -/
  core : CoreState
  /-- The host's remaining operations, in program order (R60). -/
  prog : List HostOp
  /-- Whose turn it is, next first (R12). -/
  turns : List Turn
  /-- What the host has read: offset and value, oldest first (R88). -/
  reads : List (Nat × Word)
deriving DecidableEq, Repr

/-- The core has no fault: "the core itself has no fault and no stuck state" (R13, R200; log 7). So no
constructor stands here, and no step faults. -/
inductive Fault where
deriving DecidableEq, Repr

/-- Why a step has no meaning. -/
inductive Refusal where
  /-- Raised by `exec` for a command with no meaning yet. Safe. No arm raises it. -/
  | notModelled (mnemonic : String)
  /-- Raised by a host access that is not an aligned 32-bit access inside the window: the spec gives it
  no meaning and has a model refuse it (R13, R55; log 6). Safe. -/
  | outsideInterface (size : AccessSize) (addr : BusAddr)
deriving DecidableEq, Repr

/-- The core after reset (R49). -/
def CoreState.reset : CoreState where
  h := iv
  w := { a := 0, b := 0, c := 0, d := 0, e := 0 }
  ws := Vector.replicate 16 0
  t := 0
  q := []
  fin := false
  blk := Vector.replicate 16 0
  k := Vector.replicate 64 0
  mlen := 0
  dvalid := false
  done := false
  err := false
  errcode := 0
  inten := 0

/-- The machine right after reset: the core as R49 has it, and nothing from its environment (log 1). -/
def State.reset : State where
  core := CoreState.reset
  prog := []
  turns := []
  reads := []

end Sys2Proof.Machine
end

