-- ==== Sys2Proof/Machine/Flags.lean ====
section
/-! DEFINITION. What is a function of the core's state: BUSY (R28), the error code bits (R201), STATUS
(R43) and the irq line (R210). -/

namespace Sys2Proof.Machine

/-- BUSY = (Q != []) (R28). -/
def busy (c : CoreState) : Bool := !c.q.isEmpty

/-- The value ERRCODE takes for a rejection (R201). -/
def errBits : ErrCode → BitVec 4
  | .illegal => 1
  | .busy => 2
  | .badlen => 3
  | .seq => 4

/-- A one-bit field as a word. -/
def flagWord (b : Bool) : Word := (BitVec.ofBool b).setWidth 32

/-- `STATUS` (R43). -/
def status (c : CoreState) : Word :=
  flagWord (busy c) ||| (flagWord c.dvalid <<< 1) ||| (flagWord c.done <<< 2) ||| (flagWord c.err <<< 3)
    ||| (c.errcode.setWidth 32 <<< 4) ||| (c.t.setWidth 32 <<< 8) ||| (BitVec.ofNat 32 c.q.length <<< 16)

/-- The irq output (R210). -/
def irq (c : CoreState) : Bool := (c.inten[0] && c.done) || (c.inten[1] && c.err)

/-- The level of host interrupt input `n`, which is irq at `SHA1_IRQ_ROUTE` (R211; log 4). -/
def hostIrqInput (n : Nat) (c : CoreState) : Bool := n == Config.sha1IrqRoute && irq c

end Sys2Proof.Machine
end

