-- ==== Sys2Proof/Machine/Hmac.lean ====
section
/-! DEFINITION. The HMAC function of 41_hmac.md Part 1 (R151 to R153). -/

namespace Sys2Proof

/-- `keyprep(k)`, a 64-byte string (R151). -/
def keyprep (k : Bytes) : Block :=
  if 64 < k.length then blockOf (sha1 k ++ zeros 44) else blockOf (k ++ zeros (64 - k.length))

/-- `K64 xor rep(0x36, 64)` (R152). -/
def innerPad (k64 : Block) : Block := maskBlock k64 0x36

/-- `K64 xor rep(0x5c, 64)` (R152). -/
def outerPad (k64 : Block) : Block := maskBlock k64 0x5c

/-- `HMAC(k, m)` (R153). -/
def hmac (k m : Bytes) : Bytes :=
  sha1 ((outerPad (keyprep k)).toList ++ sha1 ((innerPad (keyprep k)).toList ++ m))

end Sys2Proof
end

