-- ==== Sys2Proof/Machine/Operands.lean ====
section
/-! DEFINITION. The operands of the commands (R52, R83, R103, R154, R157) and the checks on a decoded
command (R181). -/

namespace Sys2Proof.Machine

/-- The first `n` bytes of BLK: the tail of FINAL n, the key of KEYLOAD n (R83). -/
def blkPrefix (n : BitVec 7) (c : CoreState) : Bytes := (bytesOfWords c.blk).toList.take n.toNat

/-- `8*n` as a step of the bit counter (R115). -/
def bitsOf (n : BitVec 7) : BitVec 64 := 8 * n.setWidth 64

/-- `K` after a key of at most 64 bytes: the bytes, then zeros (R154, R155). -/
def keyBlock (s : Bytes) : Block := blockOf (s ++ zeros (64 - s.length))

/-- The second block of HMAC_OUTER: the inner digest as the padded tail of an 84-byte message (R157). -/
def outerTail (h : Chain) : List Block := blocksOf (padtail (digestBytes h) 672)

/-- SRESET, the only command accepted while busy (R181). -/
def isSreset : Instr → Bool
  | .sreset _ => true
  | .init _ | .process _ | .final _ | .keyload _ | .keydig _
  | .hmacInner _ | .hmacOuter _ | .clrerr _ => false

/-- `op in {FINAL, KEYLOAD}` (R181). -/
def takesCount : Instr → Bool
  | .final _ | .keyload _ => true
  | .init _ | .process _ | .keydig _ | .hmacInner _ | .hmacOuter _ | .clrerr _ | .sreset _ => false

/-- `op in {KEYDIG, HMAC_OUTER}` (R181). -/
def needsDigest : Instr → Bool
  | .keydig _ | .hmacOuter _ => true
  | .init _ | .process _ | .final _ | .keyload _ | .hmacInner _ | .clrerr _ | .sreset _ => false

/-- The operand is out of range (R86, R181). -/
def badCount (i : Instr) : Bool := if takesCount i then decide (64 < i.count.toNat) else i.count != 0

/-- The checks after decoding, first failure wins (R181, R206). -/
def check (i : Instr) (c : CoreState) : Option ErrCode :=
  if busy c && !isSreset i then some .busy
  else if badCount i then some .badlen
  else if needsDigest i && !c.dvalid then some .seq
  else none

end Sys2Proof.Machine
end

