-- ==== Sys2Proof/Machine/Ops.lean ====
section
/-! DEFINITION. The named operations over the core's state: the rejection of a command, the core's only
exception mechanism (R182), and the clearing of its latch beside it (R184); the acceptance of a command
(R183); load, start, the round step and the end of a block (R120 to R123). -/

namespace Sys2Proof.Machine

/-- `Reject(code)`: the first error is kept, and nothing else changes (R182, R207). -/
def reject (e : ErrCode) (c : CoreState) : CoreState :=
  if c.err then c else { c with err := true, errcode := errBits e }

/-- The end of the error condition (R184, R209). -/
def clearError (c : CoreState) : CoreState := { c with err := false, errcode := 0 }

/-- `load(b)` (R120). -/
def load (b : Block) (c : CoreState) : CoreState :=
  { c with w := workOf c.h, ws := blockWords b, t := 0 }

/-- `start(bs, fin)` (R121). No command gives an empty list; one would queue nothing (log 13). -/
def start (bs : List Block) (fin : Bool) (c : CoreState) : CoreState :=
  match bs with
  | [] => { c with q := [], fin := fin }
  | b :: rest => load b { c with q := b :: rest, fin := fin }

/-- The schedule window at round t: from round 16 on, word `t mod 16` becomes W_t (R122). -/
def windowStep (t : Nat) (ws : Words16) : Words16 :=
  if 16 ≤ t then
    ws.set (t % 16) (rotl 1 (ws[(t + 13) % 16] ^^^ ws[(t + 8) % 16] ^^^ ws[(t + 2) % 16] ^^^ ws[t % 16]))
  else ws

/-- `end_block()` (R123). -/
def endBlock (c : CoreState) : CoreState :=
  match c.q.tail with
  | b :: rest => load b { c with h := addWork c.h c.w, q := b :: rest }
  | [] =>
    { c with h := addWork c.h c.w, q := [], t := 0, done := true, dvalid := c.dvalid || c.fin, fin := false }

/-- One round on the window and the working registers (R122). -/
def roundStep (c : CoreState) : CoreState :=
  { c with
    ws := windowStep c.t.toNat c.ws
    w := round c.t.toNat c.w (windowStep c.t.toNat c.ws)[c.t.toNat % 16] }

/-- `core_step()`: one round, and the end of the block after round 79 (R122). -/
def coreStep (c : CoreState) : CoreState :=
  if c.t.toNat < 79 then { roundStep c with t := c.t + 1 } else endBlock (roundStep c)

/-- The issue of a decoded command: the checks of R181, then the rejection (R182) or the acceptance
(R183), which clears DONE and runs the command's own rule. -/
def perform (i : Instr) (effect : CoreState → CoreState) (s : State) : Host.Outcome State Fault Refusal :=
  match check i s.core with
  | some e => .next { s with core := reject e s.core }
  | none => .next { s with core := effect { s.core with done := false } }

end Sys2Proof.Machine
end

