-- ==== Sys2Proof/Machine/ControlCommands.lean ====
section
/-! DEFINITION. CLRERR and SRESET (42_control.md, R184, R185). -/

namespace Sys2Proof.Machine

/-- The rule of CLRERR (R184). -/
def clrerrEffect (c : CoreState) : CoreState := { clearError c with done := true }

/-- CLRERR (R184). -/
def execClrerr (n : BitVec 7) (s : State) : Host.Outcome State Fault Refusal := perform (.clrerr n) clrerrEffect s

/-- The rule of SRESET: every state element to its reset value (R185). -/
def sresetEffect (_ : CoreState) : CoreState := CoreState.reset

/-- SRESET (R185). -/
def execSreset (n : BitVec 7) (s : State) : Host.Outcome State Fault Refusal := perform (.sreset n) sresetEffect s

end Sys2Proof.Machine
end

