-- ==== Sys2Proof/Machine/HmacCommands.lean ====
section
/-! DEFINITION. KEYLOAD, KEYDIG, HMAC_INNER and HMAC_OUTER (41_hmac.md Part 2, R154 to R157). Each effect
runs at acceptance, after the checks of R181 and the common effect of R183. -/

namespace Sys2Proof.Machine

/-- The rule of KEYLOAD n (R154). -/
def keyloadEffect (n : BitVec 7) (c : CoreState) : CoreState := { c with k := keyBlock (blkPrefix n c), done := true }

/-- KEYLOAD n (R154). -/
def execKeyload (n : BitVec 7) (s : State) : Host.Outcome State Fault Refusal :=
  perform (.keyload n) (keyloadEffect n) s

/-- The rule of KEYDIG (R155). -/
def keydigEffect (c : CoreState) : CoreState := { c with k := keyBlock (digestBytes c.h), done := true }

/-- KEYDIG (R155). -/
def execKeydig (n : BitVec 7) (s : State) : Host.Outcome State Fault Refusal := perform (.keydig n) keydigEffect s

/-- The rule of HMAC_INNER (R156). -/
def hmacInnerEffect (c : CoreState) : CoreState :=
  start [innerPad c.k] false { c with h := iv, mlen := 512, dvalid := false }

/-- HMAC_INNER (R156). -/
def execHmacInner (n : BitVec 7) (s : State) : Host.Outcome State Fault Refusal :=
  perform (.hmacInner n) hmacInnerEffect s

/-- The rule of HMAC_OUTER; the inner digest is taken from H before H becomes IV (R157). -/
def hmacOuterEffect (c : CoreState) : CoreState :=
  start (outerPad c.k :: outerTail c.h) true { c with h := iv, mlen := 672, dvalid := false }

/-- HMAC_OUTER (R157). -/
def execHmacOuter (n : BitVec 7) (s : State) : Host.Outcome State Fault Refusal :=
  perform (.hmacOuter n) hmacOuterEffect s

end Sys2Proof.Machine
end

