-- ==== Sys2Proof/Machine/Sha1Commands.lean ====
section
/-! DEFINITION. INIT, PROCESS and FINAL (40_sha1.md Part 2, R113 to R115). Each effect runs at
acceptance, after the checks of R181 and the common effect of R183. -/

namespace Sys2Proof.Machine

/-- The rule of INIT (R113). -/
def initEffect (c : CoreState) : CoreState := { c with h := iv, mlen := 0, dvalid := false, done := true }

/-- INIT (R113). -/
def execInit (n : BitVec 7) (s : State) : Host.Outcome State Fault Refusal := perform (.init n) initEffect s

/-- The rule of PROCESS (R114). -/
def processEffect (c : CoreState) : CoreState :=
  start [bytesOfWords c.blk] false { c with mlen := c.mlen + 512, dvalid := false }

/-- PROCESS (R114). -/
def execProcess (n : BitVec 7) (s : State) : Host.Outcome State Fault Refusal :=
  perform (.process n) processEffect s

/-- The rule of FINAL n; the length field is the updated MLEN (R115). -/
def finalEffect (n : BitVec 7) (c : CoreState) : CoreState :=
  start (blocksOf (padtail (blkPrefix n c) (c.mlen + bitsOf n))) true
    { c with mlen := c.mlen + bitsOf n, dvalid := false }

/-- FINAL n (R115). -/
def execFinal (n : BitVec 7) (s : State) : Host.Outcome State Fault Refusal := perform (.final n) (finalEffect n) s

end Sys2Proof.Machine
end

