-- ==== Sys2Proof/Machine/Dispatch.lean ====
section
/-! DEFINITION. The meaning of every command: its issue at a core that has decoded it (R181 to R183). -/

namespace Sys2Proof.Machine

def exec (i : Instr) (s : State) : Host.Outcome State Fault Refusal :=
  match i with
  -- 40_sha1.md
  | .init n => Sys2Proof.Machine.execInit n s
  | .process n => Sys2Proof.Machine.execProcess n s
  | .final n => Sys2Proof.Machine.execFinal n s
  -- 41_hmac.md
  | .keyload n => Sys2Proof.Machine.execKeyload n s
  | .keydig n => Sys2Proof.Machine.execKeydig n s
  | .hmacInner n => Sys2Proof.Machine.execHmacInner n s
  | .hmacOuter n => Sys2Proof.Machine.execHmacOuter n s
  -- 42_control.md
  | .clrerr n => Sys2Proof.Machine.execClrerr n s
  | .sreset n => Sys2Proof.Machine.execSreset n s

end Sys2Proof.Machine
end

