-- ==== Sys2Proof/Machine/Bus.lean ====
section
/-! DEFINITION. The register window (R53, R54), the issue of a command word (R180), and one turn of each
agent (R12, R122, R230). -/

namespace Sys2Proof.Machine

/-- The constant of the ID register (R41). -/
def idValue : Word := 0x53484131

/-- What a read of a register returns (R53; R41 to R48). -/
def readReg (r : Reg) (c : CoreState) : Word :=
  match r with
  | .id => idValue
  | .cmd => 0
  | .status => status c
  | .inten => c.inten.setWidth 32
  | .mlenLo => c.mlen.extractLsb' 0 32
  | .mlenHi => c.mlen.extractLsb' 32 32
  | .blk i => c.blk[i]
  | .digest i => c.h[i]
  | .reserved _ => 0

/-- `RegRead(off)` at a word-aligned offset of the window (R53). -/
def regRead (off : Nat) (c : CoreState) : Word := readReg (regAt off) c

/-- `issue(v)`: decode, then the checks and the effect of the command; an illegal word is rejected with
ILLEGAL, busy or idle (R180, R181, R202). -/
def issue (v : Word) (s : State) : Host.Outcome State Fault Refusal :=
  match decode v with
  | .illegal _ => .next { s with core := reject .illegal s.core }
  | .cmd i => exec i s

/-- What a write of a register does (R54; R41 to R48). -/
def writeReg (r : Reg) (v : Word) (s : State) : Host.Outcome State Fault Refusal :=
  match r with
  | .cmd => issue v s
  | .inten => .next { s with core := { s.core with inten := v.extractLsb' 0 2 } }
  | .blk i => .next { s with core := { s.core with blk := s.core.blk.set i v } }
  | .id | .status | .mlenLo | .mlenHi | .digest _ | .reserved _ => .next s

/-- `RegWrite(off, v)` at a word-aligned offset of the window (R54). -/
def regWrite (off : Nat) (v : Word) (s : State) : Host.Outcome State Fault Refusal :=
  writeReg (regAt off) v s

/-- A read by the host: the value joins what it has read, and the core is unchanged (R53). -/
def hostRead (off : Nat) (s : State) : State := { s with reads := s.reads ++ [(off, regRead off s.core)] }

/-- One host step (R12, R53 to R55). POLL is one STATUS read a turn until the value read has bit 0
clear (R89); a wait for irq ends at a turn that finds irq high (R61; log 5). -/
def hostTurn (s : State) : Host.Outcome State Fault Refusal :=
  match s.prog with
  | [] => .next s
  | .rd size addr :: ops =>
    match windowOffset size addr with
    | some off => .next (hostRead off { s with prog := ops })
    | none => .refused (.outsideInterface size addr)
  | .wr size addr v :: ops =>
    match windowOffset size addr with
    | some off => regWrite off v { s with prog := ops }
    | none => .refused (.outsideInterface size addr)
  | .poll :: ops =>
    if (regRead 0x08 s.core)[0] then .next (hostRead 0x08 s) else .next (hostRead 0x08 { s with prog := ops })
  | .waitIrq :: ops => if irq s.core then .next { s with prog := ops } else .next s

/-- One turn of the core: a round when it is busy; an idle core takes no step (R28, R122, R217). -/
def coreTurn (s : State) : State := if busy s.core then { s with core := coreStep s.core } else s

/-- The assertion of the reset input: every state element of the core (R230); the environment's inputs
stay (DESIGN CHOICE, log 11; safe). -/
def resetTurn (s : State) : State := { s with core := CoreState.reset }

/-- The turn that comes next: the head of `turns`; when that has run out, the core's while it is busy
and the host's otherwise (DESIGN CHOICE, log 2; unsafe for claims that a run ends). -/
def nextTurn (s : State) : Turn :=
  match s.turns with
  | a :: _ => a
  | [] => if busy s.core then .core else .host

/-- One agent's turn. -/
def takeTurn (a : Turn) (s : State) : Host.Outcome State Fault Refusal :=
  match a with
  | .host => hostTurn s
  | .core => .next (coreTurn s)
  | .resetInput => .next (resetTurn s)

/-- The host access that issues command word `v` (R42, R88). -/
def cmdWrite (v : Word) : HostOp := .wr .word (.offset 0x04) v

/-- The state whose next step is the host's and issues `v`. -/
def withCommand (v : Word) (s : State) : State :=
  { s with prog := cmdWrite v :: s.prog, turns := .host :: s.turns }

end Sys2Proof.Machine
end

