-- ==== Sys2Proof/Machine/Step.lean ====
section
/-! DEFINITION. One step of the machine: one atomic step of one agent (R12, R56). -/

namespace Sys2Proof.Machine

/-- One step: the agent whose turn it is moves, and the turn is used up. -/
def step (s : State) : Host.Outcome State Fault Refusal :=
  takeTurn (nextTurn s) { s with turns := s.turns.tail }

/-- The command word where the next step takes it: the core fetches nothing (R63, R232), so the host's
next access writes it to CMD, and the next turn is the host's (log 10). -/
def State.withFetchWord (s : State) (nbits w : Nat) : State := withCommand (BitVec.ofNat 32 (w % 2 ^ nbits)) s

end Sys2Proof.Machine
end

