-- ==== Sys2Proof/Machine/HostPrograms.lean ====
section
/-! DEFINITION. The host program syntax and the pseudo-instructions of 30_encoding.md §4 (R88, R89), each a
list of host operations. -/

namespace Sys2Proof.Machine

/-- `RD <var>, <reg>` (R88). -/
def rdReg (r : Reg) : HostOp := .rd .word (.offset (regOffset r))

/-- `WR <reg>, <imm32>` (R88). -/
def wrReg (r : Reg) (v : Word) : HostOp := .wr .word (.offset (regOffset r)) v

/-- `<MNEMONIC> [n]` (R88). -/
def cmdOp (i : Instr) : HostOp := wrReg .cmd (encode i)

/-- `WRBLK s`, for a byte string of at most 64 bytes (R89). -/
def wrblk (s : Bytes) : List HostOp :=
  List.ofFn fun i : Fin 16 => wrReg (.blk i) (blockWord (blockOf s) i)

/-- `RDDIG d` (R89). -/
def rddig : List HostOp := List.ofFn fun i : Fin 5 => rdReg (.digest i)

/-- The full 64-byte chunks of a message: WRBLK, PROCESS, POLL for each (R89). -/
def chunkOps (m : Bytes) : List HostOp :=
  (List.range (m.length / 64)).flatMap fun j =>
    wrblk ((m.drop (64 * j)).take 64) ++ [cmdOp (.process 0), .poll]

/-- The chunks of a message and its tail: `SHA1MSG m` without its INIT (R89). -/
def messageOps (m : Bytes) : List HostOp :=
  chunkOps m ++ wrblk (m.drop (64 * (m.length / 64))) ++
    [cmdOp (.final (BitVec.ofNat 7 (m.length % 64))), .poll]

/-- `SHA1MSG m` (R89). -/
def sha1msg (m : Bytes) : List HostOp := cmdOp (.init 0) :: messageOps m

/-- `HMACKEY k` (R89). -/
def hmackey (k : Bytes) : List HostOp :=
  if 64 < k.length then sha1msg k ++ [cmdOp (.keydig 0)]
  else wrblk k ++ [cmdOp (.keyload (BitVec.ofNat 7 k.length))]

/-- `HMACMSG m` (R89). -/
def hmacmsg (m : Bytes) : List HostOp :=
  [cmdOp (.hmacInner 0), .poll] ++ messageOps m ++ [cmdOp (.hmacOuter 0), .poll]

end Sys2Proof.Machine
end

