-- ==== Sys2Proof/Safety.lean ====
section
/-! DEFINITION. The terms claims are stated in: the invariants of the core, the accesses inside the
interface, and runs. -/

namespace Sys2Proof

open Machine

/-- What the spec says of every value the state elements take together (R24, R27, R29, R31, R32, R33, R43;
whole bytes, R6). -/
structure CoreInv (c : CoreState) : Prop where
  /-- t is 0..79 (R24). -/
  round_lt : c.t.toNat < 80
  /-- Q holds at most 2 blocks (R27). -/
  queue_le : c.q.length ≤ Config.queueDepth
  /-- While idle, t = 0 (R24) and FIN = 0 (R29). -/
  idle_clear : busy c = false → c.t = 0 ∧ c.fin = false
  /-- A running job has cleared DVALID and DONE (R31, R32). -/
  busy_clear : busy c = true → c.dvalid = false ∧ c.done = false
  /-- Only the jobs of FINAL and HMAC_OUTER have two blocks, and they set FIN (R29, R82). -/
  two_fin : c.q.length = 2 → c.fin = true
  /-- ERRCODE = 0 exactly when ERR = 0 (R33). -/
  errcode_zero_iff : c.errcode = 0 ↔ c.err = false
  /-- Codes 5..15 are never produced (R201). -/
  errcode_le : c.errcode.toNat ≤ 4
  /-- Messages are whole bytes (R6), so the bit counter is a multiple of 8. -/
  mlen_bytes : c.mlen.toNat % 8 = 0

/-- Where the window of a block stands before round t: word j holds the newest W_i with i mod 16 = j and
i < max(t, 16) (R23). -/
def WindowAt (b : Block) (t : Nat) (ws : Words16) : Prop :=
  ∀ i, i < max t 16 → max t 16 ≤ i + 16 → ws[i % 16]'(Nat.mod_lt _ (by decide)) = schedWord b i

/-- While a job runs, the working registers and the window are those of the block at the head of Q after
t rounds from the chaining state (R22, R23, R24). -/
def JobInv (c : CoreState) : Prop :=
  ∀ b rest, c.q = b :: rest → c.w = workAfter c.h b c.t.toNat ∧ WindowAt b c.t.toNat c.ws

/-- The operation is an access the interface defines, or a wait made of such accesses (R13, R55). -/
def insideInterface : HostOp → Bool
  | .rd size addr | .wr size addr _ => (windowOffset size addr).isSome
  | .poll | .waitIrq => true

/-- The operation cannot issue a command: it is no write to CMD. -/
def notCommand : HostOp → Bool
  | .wr size addr _ => windowOffset size addr != some 0x04
  | .rd _ _ | .poll | .waitIrq => true

/-- The next step issues the command `i`: the host's next access writes a word that decodes to it to CMD
(R42, R180). -/
def IssuesCommand (s : State) (i : Instr) : Prop :=
  nextTurn s = .host ∧ ∃ size addr v ops, s.prog = .wr size addr v :: ops ∧
    windowOffset size addr = some 0x04 ∧ decode v = .cmd i

/-- The next step issues a command and the core accepts it (R181, R183). -/
def AcceptsCommand (s : State) (i : Instr) : Prop := IssuesCommand s i ∧ check i s.core = none

/-- The state after a word is rejected with `code`: the latch alone, and only when it is clear (R182). -/
def rejectedWith (code : BitVec 4) (s : State) : State :=
  { s with core := if s.core.err then s.core else { s.core with err := true, errcode := code } }

/-- The core steps of an accepted command, from acceptance to BUSY = 0: the table of R242. -/
def coreStepsOf : Instr → Nat
  | .process _ | .hmacInner _ => 80
  | .final n => if n.toNat ≤ 55 then 80 else 160
  | .hmacOuter _ => 160
  | .init _ | .keyload _ | .keydig _ | .clrerr _ | .sreset _ => 0

/-- The core after `k` core steps. -/
@[irreducible] def coreSteps (k : Nat) (c : CoreState) : CoreState := coreStep^[k] c

/-- The two states are equal but for the key register K. -/
def SameButKey (s t : State) : Prop := ∃ k, t = { s with core := { s.core with k := k } }

/-- The two cores are equal but for K and what is computed from it: H, A..E, WS and the contents, not the number,
of the queued blocks. -/
def SameButHashes (c d : CoreState) : Prop :=
  d.q.length = c.q.length ∧ d = { c with k := d.k, h := d.h, w := d.w, ws := d.ws, q := d.q }

/-- The host read the same offsets, and the same values everywhere but at DIGEST0..4 (0x80..0x90, R40). -/
def SameReadsButDigests : List (Nat × Word) → List (Nat × Word) → Prop :=
  List.Forall₂ fun x y => x.1 = y.1 ∧ (x.2 = y.2 ∨ (0x80 ≤ x.1 ∧ x.1 ≤ 0x90))

/-- The two machines have the same host operations and turns, and differ only in K, in what is computed from it,
and in what the host read of DIGEST. -/
def SameButDigests (s t : State) : Prop :=
  t.prog = s.prog ∧ t.turns = s.turns ∧ SameReadsButDigests s.reads t.reads ∧ SameButHashes s.core t.core

/-- `t` is reached from `s` by `k` steps, none of which stops. -/
def RunsTo (s : State) (k : Nat) (t : State) : Prop := core.run k s = .next t

end Sys2Proof
end

