-- ==== Sys2Proof/Certificates/Slice0/Obligations.lean ====
section
/-! DEFINITION. The statements about the model, in the order of the spec's files. -/

open Sys2Proof Sys2Proof.Machine

/-! ### State and register map (10_state.md, 20_memory.md) -/

/-- R49: the table of reset values, and what the registers read after reset. -/
def Obligations.ResetStateValues : Prop :=
  let c := State.reset.core
  c.h = #v[0x67452301, 0xEFCDAB89, 0x98BADCFE, 0x10325476, 0xC3D2E1F0] ∧
  c.w = { a := 0, b := 0, c := 0, d := 0, e := 0 } ∧ (∀ j : Fin 16, c.ws[j] = 0) ∧ c.t = 0 ∧ c.q = [] ∧
  c.fin = false ∧ (∀ j : Fin 16, c.blk[j] = 0) ∧ c.k.toList = zeros 64 ∧ c.mlen = 0 ∧ c.dvalid = false ∧
  c.done = false ∧ c.err = false ∧ c.errcode = 0 ∧ c.inten = 0 ∧
  busy c = false ∧ irq c = false ∧ regRead 0x08 c = 0 ∧ regRead 0x10 c = 0 ∧ regRead 0x14 c = 0 ∧
  (∀ i : Fin 5, regRead (0x80 + 4 * i.val) c = iv[i]) ∧ regRead 0x00 c = 0x53484131

/-- R53: a read of each offset returns what the map says, and the host step that reads changes no state of
the core. -/
def Obligations.RegReadMap : Prop :=
  (∀ c : CoreState,
    regRead 0x00 c = 0x53484131 ∧ regRead 0x08 c = status c ∧ regRead 0x0C c = c.inten.setWidth 32 ∧
    regRead 0x10 c = c.mlen.extractLsb' 0 32 ∧ regRead 0x14 c = c.mlen.extractLsb' 32 32 ∧
    (∀ i : Fin 16, regRead (0x40 + 4 * i.val) c = c.blk[i]) ∧
    (∀ i : Fin 5, regRead (0x80 + 4 * i.val) c = c.h[i]) ∧
    (∀ off, off % 4 = 0 → off = 0x04 ∨ (0x18 ≤ off ∧ off ≤ 0x3C) ∨ (0x94 ≤ off ∧ off ≤ 0xFC) →
      regRead off c = 0)) ∧
  (∀ (s : State) (off : Nat) (ops : List HostOp), nextTurn s = .host → s.prog = .rd .word (.offset off) :: ops →
    off % 4 = 0 → off ≤ 0xFC →
    step s = .next { s with
      prog := ops, turns := s.turns.tail, reads := s.reads ++ [(off, regRead off s.core)] })

/-- R54: a write of each offset does what the map says: CMD issues the word, INTEN takes v[1:0], BLK[i] takes
v, and every other offset has no effect. -/
def Obligations.RegWriteMap : Prop :=
  ∀ (s : State) (off : Nat) (v : Word) (ops : List HostOp), nextTurn s = .host →
    s.prog = .wr .word (.offset off) v :: ops → off % 4 = 0 → off ≤ 0xFC →
    let s' : State := { s with prog := ops, turns := s.turns.tail }
    (off = 0x04 → step s = issue v s') ∧
    (off = 0x0C → step s = .next { s' with core := { s.core with inten := v.extractLsb' 0 2 } }) ∧
    (∀ i : Fin 16, off = 0x40 + 4 * i.val →
      step s = .next { s' with core := { s.core with blk := s.core.blk.set i v } }) ∧
    (off = 0x00 ∨ off = 0x08 ∨ (0x10 ≤ off ∧ off ≤ 0x3C) ∨ 0x80 ≤ off → step s = .next s')

/-- R43: the fields of STATUS, the values they can take, and that a write of STATUS is ignored. -/
def Obligations.StatusFields : Prop :=
  (∀ c : CoreState, CoreInv c →
    (status c)[0] = busy c ∧ (status c)[1] = c.dvalid ∧ (status c)[2] = c.done ∧ (status c)[3] = c.err ∧
    (status c).extractLsb' 4 4 = c.errcode ∧ (status c).extractLsb' 8 7 = c.t ∧
    ((status c).extractLsb' 16 2).toNat = c.q.length ∧ (status c)[15] = false ∧
    (status c).extractLsb' 18 14 = 0 ∧
    c.q.length ≤ 2 ∧ c.t.toNat ≤ 79 ∧ c.errcode.toNat ≤ 4) ∧
  (∀ (s : State) (v : Word), regWrite 0x08 v s = .next s)

/-- R52: the byte order of the block buffer, and that schedule word j of its block is BLK[j]. -/
def Obligations.BlockBufferBytes : Prop :=
  ∀ ws : Words16,
    (bytesOfWords ws).toList = ws.toList.flatMap bytes32 ∧
    (∀ (i : Fin 16) (j : Fin 4),
      (bytesOfWords ws)[4 * i.val + j.val] = ws[i].extractLsb' (24 - 8 * j.val) 8) ∧
    (∀ j : Fin 16, schedWord (bytesOfWords ws) j = ws[j])

/-- R57 (with RDDIG of R89): five host turns that read DIGEST0..DIGEST4 give the digest's bytes, most
significant first, and leave the core alone. -/
def Obligations.RddigReturnsDigestBytes : Prop :=
  ∀ (s : State) (ops : List HostOp) (ts : List Turn),
    s.prog = rddig ++ ops → s.turns = List.replicate 5 .host ++ ts →
    ∃ ds : List (Nat × Word),
      RunsTo s 5 { s with prog := ops, turns := ts, reads := s.reads ++ ds } ∧
      ds.map Prod.snd = s.core.h.toList ∧
      ds.flatMap (fun d => bytes32 d.2) = digestBytes s.core.h

/-- R89, WRBLK: sixteen host turns put the bytes of the string in BLK, zero bytes after them, and change
nothing else. -/
def Obligations.WrblkFillsBlockBuffer : Prop :=
  ∀ (s : State) (m : Bytes) (ops : List HostOp) (ts : List Turn),
    m.length ≤ 64 → s.prog = wrblk m ++ ops → s.turns = List.replicate 16 .host ++ ts →
    ∃ blk : Words16, (bytesOfWords blk).toList = m ++ zeros (64 - m.length) ∧
      RunsTo s 16 { s with prog := ops, turns := ts, core := { s.core with blk := blk } }

/-- R40: a bus address is in the window when it is `SHA1_BASE` plus an offset, whatever `SHA1_BASE` is; it is
a multiple of 256. -/
def Obligations.BusAddressIsBasePlusOffset : Prop :=
  Config.sha1Base % 256 = 0 ∧
  (∀ (size : AccessSize) (off : Nat),
    windowOffset size (.absolute (Config.sha1Base + off)) = windowOffset size (.offset off)) ∧
  (∀ (size : AccessSize) (addr : Nat), addr < Config.sha1Base ∨ Config.sha1Base + 256 ≤ addr →
    windowOffset size (.absolute addr) = none)

/-- R55 and R13: an access that is no aligned 32-bit word inside the window has no meaning. -/
def Obligations.AccessOutsideInterfaceRefused : Prop :=
  ∀ (s : State) (size : AccessSize) (off : Nat) (v : Word) (ops : List HostOp), nextTurn s = .host →
    size ≠ .word ∨ off % 4 ≠ 0 ∨ 0x100 ≤ off →
    (s.prog = .rd size (.offset off) :: ops →
      step s = .refused (.outsideInterface size (.offset off))) ∧
    (s.prog = .wr size (.offset off) v :: ops →
      step s = .refused (.outsideInterface size (.offset off)))

/-- R13: with only accesses inside the interface left, no step stops, and only such accesses are left after
it. -/
def Obligations.InsideInterfaceNeverStops : Prop :=
  ∀ s : State, (∀ op ∈ s.prog, insideInterface op = true) →
    ∃ t, step s = .next t ∧ ∀ op ∈ t.prog, insideInterface op = true

/-! ### Encoding (30_encoding.md) -/

/-- R81, R82, R90: decoding the word of a command gives the command, with any operand, and every word that
decodes is the word of its command. -/
def Obligations.EncodeDecodeAgree : Prop :=
  (∀ i : Instr, decode (encode i) = .cmd i) ∧ (∀ (c : Word) (i : Instr), decode c = .cmd i → encode i = c)

/-- R82: the nine words of the opcode map with N = 0, and its five examples with an operand. -/
def Obligations.CommandWordsDecode : Prop :=
  decode 0x00000001 = .cmd (.init 0) ∧ decode 0x00000002 = .cmd (.process 0) ∧
  decode 0x00000003 = .cmd (.final 0) ∧ decode 0x00000004 = .cmd (.keyload 0) ∧
  decode 0x00000303 = .cmd (.final 3) ∧ decode 0x00003803 = .cmd (.final 56) ∧
  decode 0x00004003 = .cmd (.final 64) ∧ decode 0x00001404 = .cmd (.keyload 20) ∧
  decode 0x00004004 = .cmd (.keyload 64) ∧ decode 0x00000005 = .cmd (.keydig 0) ∧
  decode 0x00000006 = .cmd (.hmacInner 0) ∧ decode 0x00000007 = .cmd (.hmacOuter 0) ∧
  decode 0x00000008 = .cmd (.clrerr 0) ∧ decode 0x00000009 = .cmd (.sreset 0)

/-- R85, R202: which words are illegal, and that issuing one, busy or idle, is rejected with code 1. -/
def Obligations.IllegalWordsRejected : Prop :=
  ∀ c : Word,
    ((∃ why, decode c = .illegal why) ↔
      (c.extractLsb' 0 8 = (0 : Byte) ∨ 0x0A ≤ (c.extractLsb' 0 8).toNat ∨ c.extractLsb' 15 17 ≠ 0)) ∧
    ((c.extractLsb' 0 8 = (0 : Byte) ∨ 0x0A ≤ (c.extractLsb' 0 8).toNat ∨ c.extractLsb' 15 17 ≠ 0) →
      ∀ s : State, issue c s = .next (rejectedWith 1 s))

/-- R86, R204: N out of range is rejected with code 3: of FINAL and KEYLOAD above 64, of any other command
when not 0; with the core idle, or for SRESET in any state. -/
def Obligations.BadCountRejected : Prop :=
  ∀ (n : BitVec 7) (s : State),
    (64 < n.toNat → busy s.core = false →
      exec (.final n) s = .next (rejectedWith 3 s) ∧ exec (.keyload n) s = .next (rejectedWith 3 s)) ∧
    (n ≠ 0 → exec (.sreset n) s = .next (rejectedWith 3 s)) ∧
    (n ≠ 0 → busy s.core = false →
      ∀ i ∈ [Instr.init n, .process n, .keydig n, .hmacInner n, .hmacOuter n, .clrerr n],
        exec i s = .next (rejectedWith 3 s))

/-! ### The SHA-1 function (40_sha1.md Part 1) -/

/-- R102: the padding, with the least number of zero bytes, and its length. -/
def Obligations.PaddingOfWholeMessage : Prop :=
  ∀ m : Bytes, ∃ z, pad m = m ++ [0x80] ++ zeros z ++ bytes64 (BitVec.ofNat 64 (8 * m.length)) ∧
    (m.length + 1 + z) % 64 = 56 ∧ (∀ z', (m.length + 1 + z') % 64 = 56 → z ≤ z') ∧
    (pad m).length % 64 = 0 ∧ (pad m).length = 64 * ((m.length + 8) / 64 + 1)

/-- R103: the blocks of the tail padding in each range of the tail's length, that the padding of a whole
message is its full chunks followed by the padding of its tail, and that a tail of 64 bytes and a full block
followed by an empty tail give the same bytes. -/
def Obligations.TailPaddingBlocks : Prop :=
  ∀ (s : Bytes) (lb : BitVec 64),
    (s.length ≤ 55 → ∃ b : Block, blocksOf (padtail s lb) = [b] ∧
      b.toList = s ++ [0x80] ++ zeros (55 - s.length) ++ bytes64 lb) ∧
    (56 ≤ s.length → s.length ≤ 63 → ∃ b0 b1 : Block, blocksOf (padtail s lb) = [b0, b1] ∧
      b0.toList = s ++ [0x80] ++ zeros (63 - s.length) ∧ b1.toList = zeros 56 ++ bytes64 lb) ∧
    (s.length = 64 → ∃ b0 b1 : Block, blocksOf (padtail s lb) = [b0, b1] ∧
      b0.toList = s ∧ b1.toList = [0x80] ++ zeros 55 ++ bytes64 lb) ∧
    (∀ c : Bytes, c.length % 64 = 0 → pad (c ++ s) = c ++ padtail s (bitLength (c ++ s))) ∧
    (s.length = 64 → padtail s lb = s ++ padtail [] lb)

/-- R105: the message schedule. -/
def Obligations.ScheduleRecurrence : Prop :=
  ∀ b : Block, (schedule b).length = 80 ∧
    (∀ j : Fin 16, schedWord b j =
      be32 b[4 * j.val] b[4 * j.val + 1] b[4 * j.val + 2] b[4 * j.val + 3]) ∧
    (∀ j, 16 ≤ j → j < 80 → schedWord b j =
      rotl 1 (schedWord b (j - 3) ^^^ schedWord b (j - 8) ^^^ schedWord b (j - 14) ^^^ schedWord b (j - 16)))

/-- R106, bit by bit: Ch chooses y where x is 1 and z where it is 0; Parity is the exclusive or; Maj is the
value at least two of the three have. -/
def Obligations.RoundFunctionsBitwise : Prop :=
  ∀ (t : Nat) (x y z : Word) (i : Fin 32), t < 80 →
    (t ≤ 19 → (roundFn t x y z)[i] = bif x[i] then y[i] else z[i]) ∧
    (20 ≤ t → t ≤ 39 → (roundFn t x y z)[i] = (x[i] ^^ (y[i] ^^ z[i]))) ∧
    (40 ≤ t → t ≤ 59 → (roundFn t x y z)[i] = decide (2 ≤ x[i].toNat + y[i].toNat + z[i].toNat)) ∧
    (60 ≤ t → (roundFn t x y z)[i] = (x[i] ^^ (y[i] ^^ z[i])))

/-- R8: rotl moves bit i to bit (i + s) mod 32, for the rotations by 1, 5 and 30 that occur (R112). -/
def Obligations.RotationMovesBits : Prop :=
  ∀ (s i : Nat) (x : Word), 0 < s → s < 32 → i < 32 → (rotl s x).getLsbD ((i + s) % 32) = x.getLsbD i

/-- Table 2.3 of 95_test_vectors.md: round 0 of the block of "abc" (R108). -/
def Obligations.RoundZeroOfAbc : Prop :=
  round 0 (workOf iv) 0x61626380 =
    { a := 0x0116FC33, b := 0x67452301, c := 0x7BF36AE2, d := 0x98BADCFE, e := 0x10325476 }

/-! ### The commands (40_sha1.md Part 2, 41_hmac.md Part 2, 42_control.md) -/

/-- R113: INIT, idle and with N = 0, is accepted with this whole next state. -/
def Obligations.InitResult : Prop :=
  ∀ s : State, busy s.core = false →
    exec (.init 0) s = .next { s with core := { s.core with
      h := #v[0x67452301, 0xEFCDAB89, 0x98BADCFE, 0x10325476, 0xC3D2E1F0]
      mlen := 0, dvalid := false, done := true } }

/-- R114: PROCESS, idle and with N = 0, is accepted with this whole next state, and 80 core steps later, no
sooner, H is the compression of the block in BLK. -/
def Obligations.ProcessResult : Prop :=
  ∀ s : State, busy s.core = false →
    ∃ c : CoreState, exec (.process 0) s = .next { s with core := c } ∧
      c = { s.core with
        mlen := s.core.mlen + 512, dvalid := false, done := false, q := [bytesOfWords s.core.blk], fin := false
        w := workOf s.core.h, ws := s.core.blk, t := 0 } ∧
      (∀ k < 80, busy (coreSteps k c) = true) ∧
      (let d := coreSteps 80 c
       busy d = false ∧ d.done = true ∧ d.dvalid = false ∧ d.mlen = s.core.mlen + 512 ∧
       d.h = compress s.core.h (bytesOfWords s.core.blk))

/-- R115: FINAL n, idle and with n in 0..64, is accepted with this whole next state (one block when n is at
most 55, else two), and when its blocks are done, no sooner, DVALID = 1, DONE = 1 and H is the chaining state
after them. -/
def Obligations.FinalResult : Prop :=
  ∀ (n : BitVec 7) (s : State), n.toNat ≤ 64 → busy s.core = false →
    let tail := (bytesOfWords s.core.blk).toList.take n.toNat
    let len := s.core.mlen + BitVec.ofNat 64 (8 * n.toNat)
    ∃ (b : Block) (rest : List Block) (c : CoreState),
      blocksOf (padtail tail len) = b :: rest ∧ rest.length = (if n.toNat ≤ 55 then 0 else 1) ∧
      exec (.final n) s = .next { s with core := c } ∧
      c = { s.core with
        mlen := len, dvalid := false, done := false, q := b :: rest, fin := true
        w := workOf s.core.h, ws := blockWords b, t := 0 } ∧
      (∀ k < 80 * (rest.length + 1), busy (coreSteps k c) = true) ∧
      (let d := coreSteps (80 * (rest.length + 1)) c
       busy d = false ∧ d.done = true ∧ d.dvalid = true ∧ d.mlen = len ∧
       d.h = (b :: rest).foldl compress s.core.h)

/-- R154: KEYLOAD n, idle and with n in 0..64, is accepted with this whole next state. -/
def Obligations.KeyloadResult : Prop :=
  ∀ (n : BitVec 7) (s : State), n.toNat ≤ 64 → busy s.core = false →
    ∃ key : Block, key.toList = (bytesOfWords s.core.blk).toList.take n.toNat ++ zeros (64 - n.toNat) ∧
      exec (.keyload n) s = .next { s with core := { s.core with k := key, done := true } }

/-- R155: KEYDIG, idle, with N = 0 and DVALID = 1, is accepted with this whole next state. -/
def Obligations.KeydigResult : Prop :=
  ∀ s : State, busy s.core = false → s.core.dvalid = true →
    ∃ key : Block, key.toList = digestBytes s.core.h ++ zeros 44 ∧
      exec (.keydig 0) s = .next { s with core := { s.core with k := key, done := true } }

/-- R156: HMAC_INNER, idle and with N = 0, is accepted with this whole next state, and 80 core steps later, no
sooner, H = compress(IV, innerPad). -/
def Obligations.HmacInnerResult : Prop :=
  ∀ s : State, busy s.core = false →
    ∃ (pad0 : Block) (c : CoreState), (∀ i : Fin 64, pad0[i] = s.core.k[i] ^^^ 0x36) ∧
      exec (.hmacInner 0) s = .next { s with core := c } ∧
      c = { s.core with
        h := iv, mlen := 512, dvalid := false, done := false, q := [pad0], fin := false
        w := workOf iv, ws := blockWords pad0, t := 0 } ∧
      (∀ k < 80, busy (coreSteps k c) = true) ∧
      (let d := coreSteps 80 c
       busy d = false ∧ d.done = true ∧ d.dvalid = false ∧ d.mlen = 512 ∧ d.h = compress iv pad0)

/-- R157: HMAC_OUTER, idle, with N = 0 and DVALID = 1, is accepted with this whole next state, and 160 core
steps later, no sooner, DVALID = 1, DONE = 1 and the digest is SHA1(outerPad || inner digest). -/
def Obligations.HmacOuterResult : Prop :=
  ∀ s : State, busy s.core = false → s.core.dvalid = true →
    ∃ (pad0 tail0 : Block) (c : CoreState), (∀ i : Fin 64, pad0[i] = s.core.k[i] ^^^ 0x5c) ∧
      tail0.toList = digestBytes s.core.h ++ [0x80] ++ zeros 35 ++ bytes64 672 ∧
      exec (.hmacOuter 0) s = .next { s with core := c } ∧
      c = { s.core with
        h := iv, mlen := 672, dvalid := false, done := false, q := [pad0, tail0], fin := true
        w := workOf iv, ws := blockWords pad0, t := 0 } ∧
      (∀ k < 160, busy (coreSteps k c) = true) ∧
      (let d := coreSteps 160 c
       busy d = false ∧ d.done = true ∧ d.dvalid = true ∧ d.mlen = 672 ∧
       digestBytes d.h = sha1 (pad0.toList ++ digestBytes s.core.h))

/-- R184: CLRERR, idle and with N = 0, is accepted with this whole next state; while a job runs it is rejected
and the latch is set. -/
def Obligations.ClrerrResult : Prop :=
  ∀ s : State,
    (busy s.core = false →
      exec (.clrerr 0) s = .next { s with core := { s.core with err := false, errcode := 0, done := true } }) ∧
    (busy s.core = true → exec (.clrerr 0) s = .next (rejectedWith 2 s))

/-- R185, R230: SRESET with N = 0, busy or idle, puts every state element at its reset value, the same core as
the reset input leaves. -/
def Obligations.SresetResult : Prop :=
  (∀ s : State, exec (.sreset 0) s = .next { s with core := State.reset.core }) ∧
  (∀ (s : State) (ts : List Turn), s.turns = .resetInput :: ts →
    step s = .next { s with core := State.reset.core, turns := ts })

/-- R203: a decodable command other than SRESET, issued while busy, is rejected with code 2. -/
def Obligations.BusyRejected : Prop :=
  ∀ (i : Instr) (s : State), busy s.core = true → (∀ n, i ≠ .sreset n) → exec i s = .next (rejectedWith 2 s)

/-- R205: KEYDIG and HMAC_OUTER, idle and with N = 0, are rejected with code 4 while DVALID = 0. -/
def Obligations.SequenceErrorRejected : Prop :=
  ∀ s : State, busy s.core = false → s.core.dvalid = false →
    exec (.keydig 0) s = .next (rejectedWith 4 s) ∧ exec (.hmacOuter 0) s = .next (rejectedWith 4 s)

/-- R206: the order of the checks, for every word at once, and the examples of the rule. -/
def Obligations.RejectionPriority : Prop :=
  (∀ (v : Word) (s : State),
    (∀ why, decode v = .illegal why → issue v s = .next (rejectedWith 1 s)) ∧
    (∀ i, decode v = .cmd i → issue v s =
      if busy s.core = true ∧ isSreset i = false then .next (rejectedWith 2 s)
      else if i.wellFormed = false then .next (rejectedWith 3 s)
      else if needsDigest i = true ∧ s.core.dvalid = false then .next (rejectedWith 4 s)
      else exec i s)) ∧
  (∀ s : State, busy s.core = true → issue 0x00008002 s = .next (rejectedWith 1 s)) ∧
  (∀ s : State, busy s.core = true → issue 0x00004103 s = .next (rejectedWith 2 s)) ∧
  (∀ s : State, busy s.core = false → s.core.dvalid = false → issue 0x00000105 s = .next (rejectedWith 3 s))

/-- R242: the core steps each accepted command takes from acceptance to BUSY = 0. -/
def Obligations.CommandStepCounts : Prop :=
  ∀ (i : Instr) (s : State), check i s.core = none →
    ∃ t, exec i s = .next t ∧ busy (coreSteps (coreStepsOf i) t.core) = false ∧
      ∀ k < coreStepsOf i, busy (coreSteps k t.core) = true

/-! ### The round state machine (40_sha1.md Part 3) -/

/-- R122: a busy core's turn at rounds 0..78 runs the round and moves t on, and changes nothing else; an idle
core's turn changes nothing. -/
def Obligations.CoreTurnRunsOneRound : Prop :=
  ∀ (s : State) (ts : List Turn), s.turns = .core :: ts →
    (busy s.core = true → s.core.t.toNat < 79 →
      let t := s.core.t.toNat
      let ws := if 16 ≤ t then
          s.core.ws.set (t % 16) (rotl 1 (s.core.ws[(t + 13) % 16] ^^^ s.core.ws[(t + 8) % 16] ^^^
            s.core.ws[(t + 2) % 16] ^^^ s.core.ws[t % 16]))
        else s.core.ws
      step s = .next { s with
        turns := ts, core := { s.core with ws := ws, w := round t s.core.w ws[t % 16], t := s.core.t + 1 } }) ∧
    (busy s.core = false → step s = .next { s with turns := ts })

/-- R123: the turn that runs round 79 adds the working registers into H and either loads the next block or
ends the job. -/
def Obligations.LastRoundEndsBlock : Prop :=
  ∀ (s : State) (ts : List Turn) (b : Block) (rest : List Block), s.turns = .core :: ts → s.core.t = 79 →
    s.core.q = b :: rest →
    let c := roundStep s.core
    let h : Chain := #v[s.core.h[0] + c.w.a, s.core.h[1] + c.w.b, s.core.h[2] + c.w.c, s.core.h[3] + c.w.d,
      s.core.h[4] + c.w.e]
    (∀ b' rest', rest = b' :: rest' → step s = .next { s with
      turns := ts
      core := { s.core with h := h, q := rest, w := workOf h, ws := blockWords b', t := 0 } }) ∧
    (rest = [] → step s = .next { s with
      turns := ts
      core := { s.core with
        h := h, q := [], w := c.w, ws := c.ws, t := 0, done := true, dvalid := s.core.dvalid || s.core.fin
        fin := false } })

/-- R122, R23: when the window holds the schedule up to round t, round t writes and uses W_t, and the window
holds the schedule up to round t + 1 after it. -/
def Obligations.WindowHoldsSchedule : Prop :=
  ∀ (b : Block) (t : Nat) (ws : Words16), t < 80 → WindowAt b t ws →
    (windowStep t ws)[t % 16] = schedWord b t ∧ WindowAt b (t + 1) (windowStep t ws)

/-- R124: a job of one or two blocks empties Q after exactly 80 core steps a block, no fewer, with H the
compression of its blocks in order and t, DONE, DVALID and FIN as R123 leaves them; A..E and WS keep the values
of the last round. -/
def Obligations.JobComputesCompression : Prop :=
  ∀ (c : CoreState) (bs : List Block) (fin : Bool), bs.length = 1 ∨ bs.length = 2 →
    (∀ k < 80 * bs.length, (coreSteps k (start bs fin c)).q ≠ []) ∧
    (let d := coreSteps (80 * bs.length) (start bs fin c)
     d.q = [] ∧ d.h = bs.foldl compress c.h ∧ d.t = 0 ∧ d.done = true ∧ d.dvalid = (c.dvalid || fin) ∧
     d.fin = false ∧
     ∀ b, bs.getLast? = some b →
       d.w = workAfter (bs.dropLast.foldl compress c.h) b 80 ∧ ∀ j : Fin 16, d.ws[j] = schedWord b (64 + j.val))

/-- R124, R12, R60, R237: the same under any interleaving of core turns and host turns, whatever the host reads
and writes meanwhile, as long as it issues no command. The job is done when the core has had 80 turns a block,
and not before. The run is over the turns given in the state. The model's choices enter at two kinds of host turn,
both of which it lets change nothing: one that finds no operation left (log 2), and a wait that finds irq low
(log 5). -/
def Obligations.JobUnderAnyInterleaving : Prop :=
  ∀ (c : CoreState) (bs : List Block) (fin : Bool) (s : State), bs.length = 1 ∨ bs.length = 2 →
    s.core = start bs fin c →
    (∀ op ∈ s.prog, insideInterface op = true ∧ notCommand op = true) → Turn.resetInput ∉ s.turns →
    ∃ t, RunsTo s s.turns.length t ∧
      (s.turns.count .core < 80 * bs.length → busy t.core = true) ∧
      (80 * bs.length ≤ s.turns.count .core →
        busy t.core = false ∧ t.core.h = bs.foldl compress c.h ∧ t.core.t = 0 ∧ t.core.done = true ∧
        t.core.dvalid = (c.dvalid || fin) ∧ t.core.fin = false)

/-- R123, R236: during the 80 rounds of a block, DIGEST0..4 read the chaining value from before the block. -/
def Obligations.DigestKeepsChainingValueDuringBlock : Prop :=
  ∀ (c : CoreState) (bs : List Block) (fin : Bool) (k : Nat), bs ≠ [] → k < 80 →
    ∀ i : Fin 5, regRead (0x80 + 4 * i.val) (coreSteps k (start bs fin c)) = c.h[i]

/-- R182, R203: a rejection never stops, restarts or alters a running job: any number of core steps after it
gives the core they give without it, but for the latch. -/
def Obligations.RejectionDoesNotAlterJob : Prop :=
  ∀ (c : CoreState) (e : ErrCode) (k : Nat), coreSteps k (reject e c) = reject e (coreSteps k c)

/-! ### Frames: who writes which state (10_state.md R36) -/

/-- R36 (and R21, R25, R26, R30, R34): what an issued command leaves unchanged, accepted or rejected, other
than SRESET. -/
def Obligations.CommandFrame : Prop :=
  ∀ (i : Instr) (s : State), (∀ n, i ≠ .sreset n) →
    ∃ t, exec i s = .next t ∧ t.prog = s.prog ∧ t.turns = s.turns ∧ t.reads = s.reads ∧
      t.core.blk = s.core.blk ∧ t.core.inten = s.core.inten ∧
      ((∀ n, i ≠ .keyload n) → (∀ n, i ≠ .keydig n) → t.core.k = s.core.k) ∧
      ((∀ n, i ≠ .init n) → (∀ n, i ≠ .hmacInner n) → (∀ n, i ≠ .hmacOuter n) → t.core.h = s.core.h) ∧
      ((∀ n, i ≠ .process n) → (∀ n, i ≠ .final n) → (∀ n, i ≠ .hmacInner n) → (∀ n, i ≠ .hmacOuter n) →
        t.core.w = s.core.w ∧ t.core.ws = s.core.ws ∧ t.core.t = s.core.t ∧ t.core.q = s.core.q ∧
        t.core.fin = s.core.fin ∧
        ((∀ n, i ≠ .init n) → t.core.mlen = s.core.mlen ∧ t.core.dvalid = s.core.dvalid)) ∧
      (check i s.core = none → (∀ n, i ≠ .clrerr n) →
        t.core.err = s.core.err ∧ t.core.errcode = s.core.errcode)

/-- R36: a core step leaves BLK, K, MLEN, the error latch and INTEN unchanged, and H too before the end of a
block. -/
def Obligations.CoreStepFrame : Prop :=
  ∀ c : CoreState,
    (coreStep c).blk = c.blk ∧ (coreStep c).k = c.k ∧ (coreStep c).mlen = c.mlen ∧ (coreStep c).err = c.err ∧
    (coreStep c).errcode = c.errcode ∧ (coreStep c).inten = c.inten ∧
    (c.t.toNat < 79 → (coreStep c).h = c.h ∧ (coreStep c).q = c.q ∧ (coreStep c).fin = c.fin ∧
      (coreStep c).dvalid = c.dvalid ∧ (coreStep c).done = c.done)

/-- R238, R26: over any step, K changes only by an accepted KEYLOAD, KEYDIG or SRESET, or the reset input. -/
def Obligations.KeyChangesOnlyByKeyCommands : Prop :=
  ∀ s t : State, step s = .next t → t.core.k ≠ s.core.k →
    nextTurn s = .resetInput ∨
    ∃ i n, AcceptsCommand s i ∧ (i = .keyload n ∨ i = .keydig n ∨ i = .sreset n)

/-- R25: over any step, BLK[j] changes only by a host write of BLK[j], an accepted SRESET, or the reset
input. -/
def Obligations.BlockBufferChangesOnlyByHost : Prop :=
  ∀ (s t : State) (j : Fin 16), step s = .next t → t.core.blk[j] ≠ s.core.blk[j] →
    nextTurn s = .resetInput ∨ (∃ n, AcceptsCommand s (.sreset n)) ∨
    (nextTurn s = .host ∧ ∃ size addr v ops, s.prog = .wr size addr v :: ops ∧
      windowOffset size addr = some (0x40 + 4 * j.val) ∧ t.core.blk[j] = v)

/-- R207: while ERR = 1, a step that is not an accepted CLRERR or SRESET nor the reset input keeps ERR and
ERRCODE. -/
def Obligations.FirstErrorKept : Prop :=
  ∀ s t : State, step s = .next t → s.core.err = true →
    (t.core.err = true ∧ t.core.errcode = s.core.errcode) ∨ nextTurn s = .resetInput ∨
    ∃ i n, AcceptsCommand s i ∧ (i = .clrerr n ∨ i = .sreset n)

/-- R31: over any step, DVALID rises only at the end of a job with FIN = 1, and H is then the old H plus the
working registers after the last round (R123); it falls only at an accepted INIT, PROCESS, FINAL, HMAC_INNER,
HMAC_OUTER or SRESET, or the reset input. -/
def Obligations.DigestValidRisesAndFalls : Prop :=
  ∀ s t : State, step s = .next t →
    (s.core.dvalid = false → t.core.dvalid = true →
      nextTurn s = .core ∧ s.core.fin = true ∧ s.core.q.length = 1 ∧ 79 ≤ s.core.t.toNat ∧ t.core.done = true ∧
      busy t.core = false ∧ t.core.h = addWork s.core.h (roundStep s.core).w) ∧
    (s.core.dvalid = true → t.core.dvalid = false →
      nextTurn s = .resetInput ∨
      ∃ i n, AcceptsCommand s i ∧ (i = .init n ∨ i = .process n ∨ i = .final n ∨ i = .hmacInner n ∨
        i = .hmacOuter n ∨ i = .sreset n))

/-- R31, R21: over any step from a state of the core invariant, while DVALID stays 1 the finished digest stays in
H. -/
def Obligations.DigestStaysWhileValid : Prop :=
  ∀ s t : State, CoreInv s.core → step s = .next t → s.core.dvalid = true → t.core.dvalid = true →
    t.core.h = s.core.h

/-! ### Invariants -/

/-- The core invariant holds at reset. -/
def Obligations.CoreInvAtReset : Prop := CoreInv State.reset.core

/-- R24, R27, R29, R31, R32, R33, R201: every step keeps the core invariant. -/
def Obligations.StepKeepsCoreInv : Prop :=
  ∀ s t : State, CoreInv s.core → step s = .next t → CoreInv t.core

/-- The job invariant holds at reset. -/
def Obligations.JobInvAtReset : Prop := JobInv State.reset.core

/-- R22, R23, R122: every step keeps the job invariant: while a job runs, the working registers and the window
are those of its block after t rounds. -/
def Obligations.StepKeepsJobInv : Prop :=
  ∀ s t : State, JobInv s.core → step s = .next t → JobInv t.core

/-! ### Steps, interrupt, and isolation -/

/-- R42, R180: a step whose host access writes a decodable word to CMD is exec of the decoded command at the
state with that access and that turn taken; and the word placed by withFetchWord runs in the very next step. -/
def Obligations.StepRunsDecodedCommand : Prop :=
  (∀ (s : State) (v : Word) (i : Instr) (ops : List HostOp), nextTurn s = .host →
    s.prog = .wr .word (.offset 0x04) v :: ops → decode v = .cmd i →
    step s = exec i { s with prog := ops, turns := s.turns.tail }) ∧
  (∀ (s : State) (i : Instr), step (s.withFetchWord 32 (encode i).toNat) = exec i s)

/-- R210, R211: irq is the level of the enabled sources; after reset it is low; writing INTEN masks the line and
leaves the sources. The last clause is the model's choice, log 4: the host interrupt inputs are numbered, and this
core's line shows at the routed one alone. -/
def Obligations.IrqLevel : Prop :=
  (∀ c : CoreState, irq c = true ↔ (c.inten[0] = true ∧ c.done = true) ∨ (c.inten[1] = true ∧ c.err = true)) ∧
  irq State.reset.core = false ∧
  (∀ (s : State) (v : Word), ∃ t, regWrite 0x0C v s = .next t ∧ t.core.done = s.core.done ∧
    t.core.err = s.core.err ∧ irq t.core = ((v[0] && s.core.done) || (v[1] && s.core.err))) ∧
  (∀ (n : Nat) (c : CoreState), hostIrqInput n c = true ↔ n = Config.sha1IrqRoute ∧ irq c = true)

/-- R61, R89: a POLL stays while the core is busy and ends at the turn that finds it idle; each turn of it is
one read of STATUS, and changes nothing of the core. -/
def Obligations.PollWaitsForIdle : Prop :=
  ∀ (s : State) (ops : List HostOp), nextTurn s = .host → s.prog = .poll :: ops → CoreInv s.core →
    step s = .next { s with
      prog := if busy s.core then s.prog else ops
      turns := s.turns.tail, reads := s.reads ++ [(0x08, status s.core)] }

/-- R61, R235: a wait for the irq line ends at the host turn that finds it asserted; a turn that finds it low
leaves the wait in place (the model's choice for such a turn, log 5). -/
def Obligations.IrqWaitEndsWithIrq : Prop :=
  ∀ (s : State) (ops : List HostOp), nextTurn s = .host → s.prog = .waitIrq :: ops →
    step s = .next { s with prog := if irq s.core then ops else s.prog, turns := s.turns.tail }

/-- R159: no register and no interrupt line shows K; and two machines that differ in K alone make the same
step, return the same values to the host, and still differ in K alone, unless the step accepts HMAC_INNER or
HMAC_OUTER. What those two commands may let K reach is the statement KeyReachesHostOnlyThroughDigests. -/
def Obligations.KeyStaysConfidential : Prop :=
  (∀ (r : Reg) (c : CoreState) (k : Block), readReg r { c with k := k } = readReg r c ∧
    irq { c with k := k } = irq c) ∧
  (∀ s s' t : State, SameButKey s s' → step s = .next t →
    ∃ t', step s' = .next t' ∧ t'.reads = t.reads ∧ t'.prog = t.prog ∧
      ((¬ ∃ i n, AcceptsCommand s i ∧ (i = .hmacInner n ∨ i = .hmacOuter n)) → SameButKey t t'))

/-! ### Whole procedures (30_encoding.md R89) -/

/-- R125: the host program SHA1MSG m, from any state with BUSY = 0, under any interleaving of the turns the
state holds (with none of them the reset input), ends with the SHA-1 digest of m in DIGEST0..4. That it ends
rests on the model's choice of what follows the given turns (log 2), which is the fairness the spec assumes
in R243. -/
def Obligations.Sha1ProcedureComputesSha1 : Prop :=
  ∀ (m : Bytes) (s : State), busy s.core = false → s.prog = sha1msg m → Turn.resetInput ∉ s.turns →
    ∃ k t, RunsTo s k t ∧ t.prog = [] ∧ busy t.core = false ∧ t.core.dvalid = true ∧ t.core.done = true ∧
      t.core.mlen = bitLength m ∧ digestBytes t.core.h = sha1 m ∧
      t.core.err = s.core.err ∧ t.core.errcode = s.core.errcode

/-- R158: the host program HMACKEY k; HMACMSG m, from any state with BUSY = 0, under any interleaving of the
turns the state holds (with none of them the reset input), ends with HMAC(k, m) in DIGEST0..4 and keyprep(k) in
K. That it ends rests on log 2, as for SHA1MSG. -/
def Obligations.HmacProcedureComputesHmac : Prop :=
  ∀ (k m : Bytes) (s : State), busy s.core = false → s.prog = hmackey k ++ hmacmsg m →
    Turn.resetInput ∉ s.turns →
    ∃ j t, RunsTo s j t ∧ t.prog = [] ∧ busy t.core = false ∧ t.core.dvalid = true ∧ t.core.done = true ∧
      t.core.mlen = 672 ∧ t.core.k = keyprep k ∧ digestBytes t.core.h = hmac k m ∧
      t.core.err = s.core.err ∧ t.core.errcode = s.core.errcode

/-- R233: a message may be hashed right after reset without INIT. That the run ends rests on log 2, as for
SHA1MSG. -/
def Obligations.HashAfterResetNeedsNoInit : Prop :=
  ∀ (m : Bytes) (ts : List Turn), Turn.resetInput ∉ ts →
    ∃ k t, RunsTo { State.reset with prog := messageOps m, turns := ts } k t ∧ t.prog = [] ∧
      busy t.core = false ∧ t.core.dvalid = true ∧ digestBytes t.core.h = sha1 m

/-! ### What the key reaches (41_hmac.md R159) -/

/-- R159: two machines that differ only in K, H, A..E, WS, the contents of the queued blocks and what the host
read of DIGEST0..4 show the same value of every other register and of irq, and any step, HMAC_INNER and HMAC_OUTER
among them, is made by both and leaves them differing in no more. So K reaches the host through DIGEST alone. -/
def Obligations.KeyReachesHostOnlyThroughDigests : Prop :=
  (∀ c d : CoreState, SameButHashes c d →
    (∀ r : Reg, (∀ i, r ≠ .digest i) → readReg r d = readReg r c) ∧ irq d = irq c) ∧
  (∀ s s' t : State, SameButDigests s s' → step s = .next t → ∃ t', step s' = .next t' ∧ SameButDigests t t')
end

