-- ==== Sys2Proof/Laws/Bytes.lean ====
section
/-! SUPPORT. Byte strings, words and blocks: lengths, elements, and the byte order of R10 and R52. -/

namespace Sys2Proof

@[simp] theorem length_zeros (n : Nat) : (zeros n).length = n := by simp [zeros]

@[simp] theorem length_bytes32 (w : Word) : (bytes32 w).length = 4 := rfl

@[simp] theorem length_bytes64 (v : BitVec 64) : (bytes64 v).length = 8 := rfl

@[simp] theorem length_digestBytes (h : Chain) : (digestBytes h).length = 20 := rfl

/-- A word is the big-endian value of its four bytes (R10). -/
@[simp] theorem be32_wordByte (w : Word) :
    be32 (wordByte w 0) (wordByte w 1) (wordByte w 2) (wordByte w 3) = w := by
  ext i hi
  simp only [be32, wordByte, BitVec.getElem_or, BitVec.getElem_shiftLeft, BitVec.getElem_setWidth,
    BitVec.getLsbD_extractLsb']
  have : i < 8 ∨ (8 ≤ i ∧ i < 16) ∨ (16 ≤ i ∧ i < 24) ∨ 24 ≤ i := by omega
  rw [← BitVec.getLsbD_eq_getElem]
  rcases this with h | h | h | h
  · simp [h, show i < 24 by omega, show i < 16 by omega]
  · simp [h, show ¬ i < 8 by omega, show i < 24 by omega, show i - 8 < 8 by omega, show 8 + (i - 8) = i by omega]
  · simp [h, show ¬ i < 8 by omega, show ¬ i < 16 by omega, show ¬ i - 8 < 8 by omega,
      show i - 16 < 8 by omega, show 16 + (i - 16) = i by omega]
  · simp [show ¬ i < 8 by omega, show ¬ i < 16 by omega, show ¬ i < 24 by omega, show ¬ i - 8 < 8 by omega,
      show ¬ i - 16 < 8 by omega, show i - 24 < 8 by omega, show 24 + (i - 24) = i by omega]

@[simp] theorem getElem_blockOf (s : Bytes) (i : Nat) (hi : i < 64) : (blockOf s)[i] = s.getD i 0 := by
  simp [blockOf]

theorem toList_blockOf {s : Bytes} (h : s.length = 64) : (blockOf s).toList = s := by
  apply List.ext_getElem (by simp [h])
  intro i h1 h2
  simp [List.getD_eq_getElem?_getD, h2]

@[simp] theorem blockOf_toList (b : Block) : blockOf b.toList = b := by
  ext i hi
  simp [List.getD_eq_getElem?_getD, hi]

@[simp] theorem getElem_maskBlock (b : Block) (m : Byte) (i : Nat) (hi : i < 64) :
    (maskBlock b m)[i] = b[i] ^^^ m := by simp [maskBlock]

@[simp] theorem getElem_bytesOfWords (ws : Words16) (i : Nat) (hi : i < 64) :
    (bytesOfWords ws)[i] = wordByte (ws[i / 4]) (i % 4) := by simp [bytesOfWords]

@[simp] theorem getElem_blockWords (b : Block) (i : Nat) (hi : i < 16) :
    (blockWords b)[i] = blockWord b ⟨i, hi⟩ := by simp [blockWords]

/-- Schedule word j of the block in BLK is BLK[j] (R52). -/
@[simp] theorem blockWords_bytesOfWords (ws : Words16) : blockWords (bytesOfWords ws) = ws := by
  ext i hi : 1
  have h1 : (4 * i + 1) / 4 = i := by omega
  have h2 : (4 * i + 2) / 4 = i := by omega
  have h3 : (4 * i + 3) / 4 = i := by omega
  have h4 : 4 * i / 4 = i := by omega
  simp [blockWord, h1, h2, h3, h4, Nat.add_mod]

/-- The four bytes of a word put together from four bytes (R10). -/
theorem wordByte_be32 (s0 s1 s2 s3 : Byte) :
    wordByte (be32 s0 s1 s2 s3) 0 = s0 ∧ wordByte (be32 s0 s1 s2 s3) 1 = s1 ∧
      wordByte (be32 s0 s1 s2 s3) 2 = s2 ∧ wordByte (be32 s0 s1 s2 s3) 3 = s3 := by
  refine ⟨?_, ?_, ?_, ?_⟩ <;>
    (apply BitVec.eq_of_getLsbD_eq; intro k hk
     simp only [wordByte, be32, BitVec.getLsbD_extractLsb', BitVec.getLsbD_or, BitVec.getLsbD_shiftLeft,
       BitVec.getLsbD_setWidth])
  · simp [hk, show k < 32 by omega, show 24 + k < 32 by omega, BitVec.getLsbD_of_ge s1 (24 + k - 16) (by omega),
      BitVec.getLsbD_of_ge s2 (24 + k - 8) (by omega), BitVec.getLsbD_of_ge s3 (24 + k) (by omega)]
  · simp [hk, show 16 + k < 32 by omega, show 16 + k < 24 by omega, show k < 32 by omega,
      BitVec.getLsbD_of_ge s2 (16 + k - 8) (by omega), BitVec.getLsbD_of_ge s3 (16 + k) (by omega)]
  · simp [hk, show 8 + k < 32 by omega, show 8 + k < 24 by omega, show 8 + k < 16 by omega, show k < 32 by omega]
  · simp [hk, show k < 32 by omega, show k < 24 by omega, show k < 16 by omega]

/-- The words of a block, back in BLK, are the block (R52). -/
@[simp] theorem bytesOfWords_blockWords (b : Block) : bytesOfWords (blockWords b) = b := by
  ext i hi : 1
  simp only [getElem_bytesOfWords _ _ hi, getElem_blockWords _ _ (show i / 4 < 16 by omega), blockWord]
  obtain ⟨h0, h1, h2, h3⟩ := wordByte_be32 b[4 * (i / 4)] b[4 * (i / 4) + 1] b[4 * (i / 4) + 2] b[4 * (i / 4) + 3]
  have h4 : i % 4 = 0 ∨ i % 4 = 1 ∨ i % 4 = 2 ∨ i % 4 = 3 := by omega
  rcases h4 with h | h | h | h <;> rw [h]
  · rw [h0]; congr 1; omega
  · rw [h1]; congr 1; omega
  · rw [h2]; congr 1; omega
  · rw [h3]; congr 1; omega

/-! ### Blocks of a byte string (R102, R103) -/

@[simp] theorem length_blocksOf (s : Bytes) : (blocksOf s).length = s.length / 64 := by simp [blocksOf]

theorem blocksOf_nil_of_length_lt {s : Bytes} (h : s.length < 64) : blocksOf s = [] := by
  apply List.eq_nil_of_length_eq_zero; simp; omega

/-- The first 64 bytes are the first block. -/
theorem blocksOf_append {c s : Bytes} (h : c.length = 64) : blocksOf (c ++ s) = blockOf c :: blocksOf s := by
  have hlen : (c ++ s).length / 64 = s.length / 64 + 1 := by rw [List.length_append, h]; omega
  have tail (j : Nat) : (c ++ s).drop (64 * (j + 1)) = s.drop (64 * j) := by
    rw [show 64 * (j + 1) = c.length + 64 * j by omega, List.drop_length_add_append]
  rw [blocksOf, hlen, List.range_succ_eq_map, List.map_cons, List.map_map]
  refine List.cons_eq_cons.mpr ⟨?_, ?_⟩
  · rw [Nat.mul_zero, List.drop_zero, ← h, List.take_left]
  · exact List.map_congr_left fun j _ => by rw [Function.comp_apply, Nat.succ_eq_add_one, tail]

/-! ### Padding (R102, R103) -/

/-- The number of zero bytes brings the length to 56 modulo 64, and is the least that does (R102). -/
theorem padZeros_spec (n : Nat) : (n + 1 + padZeros n) % 64 = 56 ∧ padZeros n < 64 := by
  unfold padZeros; omega

@[simp] theorem length_padtail (s : Bytes) (lb : BitVec 64) :
    (padtail s lb).length = 64 * ((s.length + 8) / 64 + 1) := by
  simp [padtail, padZeros]; omega

theorem padZeros_congr {m n : Nat} (h : m % 64 = n % 64) : padZeros m = padZeros n := by
  simp [padZeros, h]

end Sys2Proof
end

