-- ==== Sys2Proof/Laws/Decode.lean ====
section
/-! SUPPORT. The fields of a command word (R81) and of an encoded command. -/

namespace Sys2Proof

@[simp] theorem opField_cmdword (op : Byte) (n : BitVec 7) : opField (cmdword op n) = op := by
  ext i hi
  simp only [opField, cmdword, BitVec.getElem_extractLsb', BitVec.getLsbD_or, BitVec.getLsbD_setWidth,
    BitVec.getLsbD_shiftLeft]
  have : i < 32 := by omega
  simp [this, hi]

@[simp] theorem countField_cmdword (op : Byte) (n : BitVec 7) : countField (cmdword op n) = n := by
  ext i hi
  simp only [countField, cmdword, BitVec.getElem_extractLsb', BitVec.getLsbD_or, BitVec.getLsbD_setWidth,
    BitVec.getLsbD_shiftLeft]
  have : 8 + i < 32 := by omega
  have : i < 32 := by omega
  simp [*]

@[simp] theorem rsvField_cmdword (op : Byte) (n : BitVec 7) : rsvField (cmdword op n) = 0 := by
  ext i hi
  simp only [rsvField, cmdword, BitVec.getElem_extractLsb', BitVec.getLsbD_or, BitVec.getLsbD_setWidth,
    BitVec.getLsbD_shiftLeft]
  have h1 : n.getLsbD (15 + i - 8) = false := BitVec.getLsbD_of_ge _ _ (by omega)
  have h2 : op.getLsbD (15 + i) = false := BitVec.getLsbD_of_ge _ _ (by omega)
  simp [h1, h2]

end Sys2Proof
end

