-- ==== Sys2Proof/Laws/State.lean ====
section
/-! SUPPORT. One lemma per field per update: what each named operation does to each field of the core
and of the state, so that no proof unfolds an operation again. -/

namespace Sys2Proof.Machine

/-! ### `reject` (R182, R207) -/

@[simp] theorem reject_h (e : ErrCode) (c : CoreState) : (reject e c).h = c.h := by unfold reject; split <;> rfl
@[simp] theorem reject_w (e : ErrCode) (c : CoreState) : (reject e c).w = c.w := by unfold reject; split <;> rfl
@[simp] theorem reject_ws (e : ErrCode) (c : CoreState) : (reject e c).ws = c.ws := by unfold reject; split <;> rfl
@[simp] theorem reject_t (e : ErrCode) (c : CoreState) : (reject e c).t = c.t := by unfold reject; split <;> rfl
@[simp] theorem reject_q (e : ErrCode) (c : CoreState) : (reject e c).q = c.q := by unfold reject; split <;> rfl
@[simp] theorem reject_fin (e : ErrCode) (c : CoreState) : (reject e c).fin = c.fin := by unfold reject; split <;> rfl
@[simp] theorem reject_blk (e : ErrCode) (c : CoreState) : (reject e c).blk = c.blk := by unfold reject; split <;> rfl
@[simp] theorem reject_k (e : ErrCode) (c : CoreState) : (reject e c).k = c.k := by unfold reject; split <;> rfl
@[simp] theorem reject_mlen (e : ErrCode) (c : CoreState) : (reject e c).mlen = c.mlen := by unfold reject; split <;> rfl
@[simp] theorem reject_dvalid (e : ErrCode) (c : CoreState) : (reject e c).dvalid = c.dvalid := by unfold reject; split <;> rfl
@[simp] theorem reject_done (e : ErrCode) (c : CoreState) : (reject e c).done = c.done := by unfold reject; split <;> rfl
@[simp] theorem reject_inten (e : ErrCode) (c : CoreState) : (reject e c).inten = c.inten := by unfold reject; split <;> rfl

@[simp] theorem reject_err (e : ErrCode) (c : CoreState) : (reject e c).err = true := by
  unfold reject; split <;> simp_all

theorem reject_errcode (e : ErrCode) (c : CoreState) :
    (reject e c).errcode = if c.err then c.errcode else errBits e := by
  unfold reject; split <;> simp_all

/-! ### `clearError` (R184) -/

@[simp] theorem clearError_h (c : CoreState) : (clearError c).h = c.h := rfl
@[simp] theorem clearError_w (c : CoreState) : (clearError c).w = c.w := rfl
@[simp] theorem clearError_ws (c : CoreState) : (clearError c).ws = c.ws := rfl
@[simp] theorem clearError_t (c : CoreState) : (clearError c).t = c.t := rfl
@[simp] theorem clearError_q (c : CoreState) : (clearError c).q = c.q := rfl
@[simp] theorem clearError_fin (c : CoreState) : (clearError c).fin = c.fin := rfl
@[simp] theorem clearError_blk (c : CoreState) : (clearError c).blk = c.blk := rfl
@[simp] theorem clearError_k (c : CoreState) : (clearError c).k = c.k := rfl
@[simp] theorem clearError_mlen (c : CoreState) : (clearError c).mlen = c.mlen := rfl
@[simp] theorem clearError_dvalid (c : CoreState) : (clearError c).dvalid = c.dvalid := rfl
@[simp] theorem clearError_done (c : CoreState) : (clearError c).done = c.done := rfl
@[simp] theorem clearError_inten (c : CoreState) : (clearError c).inten = c.inten := rfl
@[simp] theorem clearError_err (c : CoreState) : (clearError c).err = false := rfl
@[simp] theorem clearError_errcode (c : CoreState) : (clearError c).errcode = 0 := rfl

/-! ### `load` (R120) -/

@[simp] theorem load_h (b : Block) (c : CoreState) : (load b c).h = c.h := rfl
@[simp] theorem load_q (b : Block) (c : CoreState) : (load b c).q = c.q := rfl
@[simp] theorem load_fin (b : Block) (c : CoreState) : (load b c).fin = c.fin := rfl
@[simp] theorem load_blk (b : Block) (c : CoreState) : (load b c).blk = c.blk := rfl
@[simp] theorem load_k (b : Block) (c : CoreState) : (load b c).k = c.k := rfl
@[simp] theorem load_mlen (b : Block) (c : CoreState) : (load b c).mlen = c.mlen := rfl
@[simp] theorem load_dvalid (b : Block) (c : CoreState) : (load b c).dvalid = c.dvalid := rfl
@[simp] theorem load_done (b : Block) (c : CoreState) : (load b c).done = c.done := rfl
@[simp] theorem load_err (b : Block) (c : CoreState) : (load b c).err = c.err := rfl
@[simp] theorem load_errcode (b : Block) (c : CoreState) : (load b c).errcode = c.errcode := rfl
@[simp] theorem load_inten (b : Block) (c : CoreState) : (load b c).inten = c.inten := rfl
@[simp] theorem load_w (b : Block) (c : CoreState) : (load b c).w = workOf c.h := rfl
@[simp] theorem load_ws (b : Block) (c : CoreState) : (load b c).ws = blockWords b := rfl
@[simp] theorem load_t (b : Block) (c : CoreState) : (load b c).t = 0 := rfl

/-! ### `start` (R121) -/

@[simp] theorem start_h (bs : List Block) (fin : Bool) (c : CoreState) : (start bs fin c).h = c.h := by cases bs <;> rfl
@[simp] theorem start_blk (bs : List Block) (fin : Bool) (c : CoreState) : (start bs fin c).blk = c.blk := by cases bs <;> rfl
@[simp] theorem start_k (bs : List Block) (fin : Bool) (c : CoreState) : (start bs fin c).k = c.k := by cases bs <;> rfl
@[simp] theorem start_mlen (bs : List Block) (fin : Bool) (c : CoreState) : (start bs fin c).mlen = c.mlen := by cases bs <;> rfl
@[simp] theorem start_dvalid (bs : List Block) (fin : Bool) (c : CoreState) : (start bs fin c).dvalid = c.dvalid := by cases bs <;> rfl
@[simp] theorem start_done (bs : List Block) (fin : Bool) (c : CoreState) : (start bs fin c).done = c.done := by cases bs <;> rfl
@[simp] theorem start_err (bs : List Block) (fin : Bool) (c : CoreState) : (start bs fin c).err = c.err := by cases bs <;> rfl
@[simp] theorem start_errcode (bs : List Block) (fin : Bool) (c : CoreState) : (start bs fin c).errcode = c.errcode := by cases bs <;> rfl
@[simp] theorem start_inten (bs : List Block) (fin : Bool) (c : CoreState) : (start bs fin c).inten = c.inten := by cases bs <;> rfl
@[simp] theorem start_q (bs : List Block) (fin : Bool) (c : CoreState) : (start bs fin c).q = bs := by
  cases bs <;> rfl
@[simp] theorem start_fin (bs : List Block) (fin : Bool) (c : CoreState) : (start bs fin c).fin = fin := by
  cases bs <;> rfl
@[simp] theorem start_cons_w (b : Block) (bs : List Block) (fin : Bool) (c : CoreState) :
    (start (b :: bs) fin c).w = workOf c.h := rfl
@[simp] theorem start_cons_ws (b : Block) (bs : List Block) (fin : Bool) (c : CoreState) :
    (start (b :: bs) fin c).ws = blockWords b := rfl
@[simp] theorem start_cons_t (b : Block) (bs : List Block) (fin : Bool) (c : CoreState) :
    (start (b :: bs) fin c).t = 0 := rfl

/-! ### `endBlock` (R123) -/

@[simp] theorem endBlock_blk (c : CoreState) : (endBlock c).blk = c.blk := by unfold endBlock; split <;> rfl
@[simp] theorem endBlock_k (c : CoreState) : (endBlock c).k = c.k := by unfold endBlock; split <;> rfl
@[simp] theorem endBlock_mlen (c : CoreState) : (endBlock c).mlen = c.mlen := by unfold endBlock; split <;> rfl
@[simp] theorem endBlock_err (c : CoreState) : (endBlock c).err = c.err := by unfold endBlock; split <;> rfl
@[simp] theorem endBlock_errcode (c : CoreState) : (endBlock c).errcode = c.errcode := by unfold endBlock; split <;> rfl
@[simp] theorem endBlock_inten (c : CoreState) : (endBlock c).inten = c.inten := by unfold endBlock; split <;> rfl
@[simp] theorem endBlock_h (c : CoreState) : (endBlock c).h = addWork c.h c.w := by
  unfold endBlock; split <;> rfl
@[simp] theorem endBlock_q (c : CoreState) : (endBlock c).q = c.q.tail := by
  unfold endBlock; split <;> simp_all
@[simp] theorem endBlock_t (c : CoreState) : (endBlock c).t = 0 := by
  unfold endBlock; split <;> rfl

/-! ### `roundStep` and `coreStep` (R122) -/

@[simp] theorem roundStep_h (c : CoreState) : (roundStep c).h = c.h := rfl
@[simp] theorem roundStep_t (c : CoreState) : (roundStep c).t = c.t := rfl
@[simp] theorem roundStep_q (c : CoreState) : (roundStep c).q = c.q := rfl
@[simp] theorem roundStep_fin (c : CoreState) : (roundStep c).fin = c.fin := rfl
@[simp] theorem roundStep_blk (c : CoreState) : (roundStep c).blk = c.blk := rfl
@[simp] theorem roundStep_k (c : CoreState) : (roundStep c).k = c.k := rfl
@[simp] theorem roundStep_mlen (c : CoreState) : (roundStep c).mlen = c.mlen := rfl
@[simp] theorem roundStep_dvalid (c : CoreState) : (roundStep c).dvalid = c.dvalid := rfl
@[simp] theorem roundStep_done (c : CoreState) : (roundStep c).done = c.done := rfl
@[simp] theorem roundStep_err (c : CoreState) : (roundStep c).err = c.err := rfl
@[simp] theorem roundStep_errcode (c : CoreState) : (roundStep c).errcode = c.errcode := rfl
@[simp] theorem roundStep_inten (c : CoreState) : (roundStep c).inten = c.inten := rfl
@[simp] theorem coreStep_blk (c : CoreState) : (coreStep c).blk = c.blk := by unfold coreStep; split <;> simp
@[simp] theorem coreStep_k (c : CoreState) : (coreStep c).k = c.k := by unfold coreStep; split <;> simp
@[simp] theorem coreStep_mlen (c : CoreState) : (coreStep c).mlen = c.mlen := by unfold coreStep; split <;> simp
@[simp] theorem coreStep_err (c : CoreState) : (coreStep c).err = c.err := by unfold coreStep; split <;> simp
@[simp] theorem coreStep_errcode (c : CoreState) : (coreStep c).errcode = c.errcode := by unfold coreStep; split <;> simp
@[simp] theorem coreStep_inten (c : CoreState) : (coreStep c).inten = c.inten := by unfold coreStep; split <;> simp

theorem roundStep_w (c : CoreState) :
    (roundStep c).w = round c.t.toNat c.w (windowStep c.t.toNat c.ws)[c.t.toNat % 16] := rfl
theorem roundStep_ws (c : CoreState) : (roundStep c).ws = windowStep c.t.toNat c.ws := rfl

/-! ### Updates of the whole state -/

@[simp] theorem hostRead_core (off : Nat) (s : State) : (hostRead off s).core = s.core := rfl
@[simp] theorem hostRead_prog (off : Nat) (s : State) : (hostRead off s).prog = s.prog := rfl
@[simp] theorem hostRead_turns (off : Nat) (s : State) : (hostRead off s).turns = s.turns := rfl
@[simp] theorem hostRead_reads (off : Nat) (s : State) :
    (hostRead off s).reads = s.reads ++ [(off, regRead off s.core)] := rfl
@[simp] theorem resetTurn_core (s : State) : (resetTurn s).core = CoreState.reset := rfl
@[simp] theorem resetTurn_prog (s : State) : (resetTurn s).prog = s.prog := rfl
@[simp] theorem resetTurn_turns (s : State) : (resetTurn s).turns = s.turns := rfl
@[simp] theorem resetTurn_reads (s : State) : (resetTurn s).reads = s.reads := rfl
@[simp] theorem coreTurn_core (s : State) :
    (coreTurn s).core = if busy s.core then coreStep s.core else s.core := by
  unfold coreTurn; split <;> rfl
@[simp] theorem coreTurn_prog (s : State) : (coreTurn s).prog = s.prog := by unfold coreTurn; split <;> rfl
@[simp] theorem coreTurn_turns (s : State) : (coreTurn s).turns = s.turns := by unfold coreTurn; split <;> rfl
@[simp] theorem coreTurn_reads (s : State) : (coreTurn s).reads = s.reads := by unfold coreTurn; split <;> rfl

end Sys2Proof.Machine
end

