-- ==== Sys2Proof/Laws/Effects.lean ====
section
/-! SUPPORT. One lemma per field of the rule of each command (R113 to R115, R154 to R157, R184, R185), so that no
proof unfolds a rule again. -/

namespace Sys2Proof.Machine

/-! ### `initEffect` (R113) -/

@[simp] theorem initEffect_h (c : CoreState) : (initEffect c).h = iv := by rw [initEffect]
@[simp] theorem initEffect_w (c : CoreState) : (initEffect c).w = c.w := by rw [initEffect]
@[simp] theorem initEffect_ws (c : CoreState) : (initEffect c).ws = c.ws := by rw [initEffect]
@[simp] theorem initEffect_t (c : CoreState) : (initEffect c).t = c.t := by rw [initEffect]
@[simp] theorem initEffect_q (c : CoreState) : (initEffect c).q = c.q := by rw [initEffect]
@[simp] theorem initEffect_fin (c : CoreState) : (initEffect c).fin = c.fin := by rw [initEffect]
@[simp] theorem initEffect_blk (c : CoreState) : (initEffect c).blk = c.blk := by rw [initEffect]
@[simp] theorem initEffect_k (c : CoreState) : (initEffect c).k = c.k := by rw [initEffect]
@[simp] theorem initEffect_mlen (c : CoreState) : (initEffect c).mlen = 0 := by rw [initEffect]
@[simp] theorem initEffect_dvalid (c : CoreState) : (initEffect c).dvalid = false := by rw [initEffect]
@[simp] theorem initEffect_done (c : CoreState) : (initEffect c).done = true := by rw [initEffect]
@[simp] theorem initEffect_err (c : CoreState) : (initEffect c).err = c.err := by rw [initEffect]
@[simp] theorem initEffect_errcode (c : CoreState) : (initEffect c).errcode = c.errcode := by rw [initEffect]
@[simp] theorem initEffect_inten (c : CoreState) : (initEffect c).inten = c.inten := by rw [initEffect]

/-! ### `processEffect` (R114) -/

@[simp] theorem processEffect_h (c : CoreState) : (processEffect c).h = c.h := by simp [processEffect]
@[simp] theorem processEffect_w (c : CoreState) : (processEffect c).w = workOf c.h := by simp [processEffect]
@[simp] theorem processEffect_ws (c : CoreState) : (processEffect c).ws = c.blk := by simp [processEffect]
@[simp] theorem processEffect_t (c : CoreState) : (processEffect c).t = 0 := by simp [processEffect]
@[simp] theorem processEffect_q (c : CoreState) :
    (processEffect c).q = [bytesOfWords c.blk] := by simp [processEffect]
@[simp] theorem processEffect_fin (c : CoreState) : (processEffect c).fin = false := by simp [processEffect]
@[simp] theorem processEffect_blk (c : CoreState) : (processEffect c).blk = c.blk := by simp [processEffect]
@[simp] theorem processEffect_k (c : CoreState) : (processEffect c).k = c.k := by simp [processEffect]
@[simp] theorem processEffect_mlen (c : CoreState) :
    (processEffect c).mlen = c.mlen + 512 := by simp [processEffect]
@[simp] theorem processEffect_dvalid (c : CoreState) : (processEffect c).dvalid = false := by simp [processEffect]
@[simp] theorem processEffect_done (c : CoreState) : (processEffect c).done = c.done := by simp [processEffect]
@[simp] theorem processEffect_err (c : CoreState) : (processEffect c).err = c.err := by simp [processEffect]
@[simp] theorem processEffect_errcode (c : CoreState) :
    (processEffect c).errcode = c.errcode := by simp [processEffect]
@[simp] theorem processEffect_inten (c : CoreState) : (processEffect c).inten = c.inten := by simp [processEffect]

/-! ### `finalEffect` (R115) -/

@[simp] theorem finalEffect_h (n : BitVec 7) (c : CoreState) : (finalEffect n c).h = c.h := by simp [finalEffect]
@[simp] theorem finalEffect_q (n : BitVec 7) (c : CoreState) :
    (finalEffect n c).q = blocksOf (padtail (blkPrefix n c) (c.mlen + bitsOf n)) := by simp [finalEffect]
@[simp] theorem finalEffect_fin (n : BitVec 7) (c : CoreState) :
    (finalEffect n c).fin = true := by simp [finalEffect]
@[simp] theorem finalEffect_blk (n : BitVec 7) (c : CoreState) :
    (finalEffect n c).blk = c.blk := by simp [finalEffect]
@[simp] theorem finalEffect_k (n : BitVec 7) (c : CoreState) : (finalEffect n c).k = c.k := by simp [finalEffect]
@[simp] theorem finalEffect_mlen (n : BitVec 7) (c : CoreState) :
    (finalEffect n c).mlen = c.mlen + bitsOf n := by simp [finalEffect]
@[simp] theorem finalEffect_dvalid (n : BitVec 7) (c : CoreState) :
    (finalEffect n c).dvalid = false := by simp [finalEffect]
@[simp] theorem finalEffect_done (n : BitVec 7) (c : CoreState) :
    (finalEffect n c).done = c.done := by simp [finalEffect]
@[simp] theorem finalEffect_err (n : BitVec 7) (c : CoreState) :
    (finalEffect n c).err = c.err := by simp [finalEffect]
@[simp] theorem finalEffect_errcode (n : BitVec 7) (c : CoreState) :
    (finalEffect n c).errcode = c.errcode := by simp [finalEffect]
@[simp] theorem finalEffect_inten (n : BitVec 7) (c : CoreState) :
    (finalEffect n c).inten = c.inten := by simp [finalEffect]

/-! ### `keyloadEffect` (R154) -/

@[simp] theorem keyloadEffect_h (n : BitVec 7) (c : CoreState) :
    (keyloadEffect n c).h = c.h := by rw [keyloadEffect]
@[simp] theorem keyloadEffect_w (n : BitVec 7) (c : CoreState) :
    (keyloadEffect n c).w = c.w := by rw [keyloadEffect]
@[simp] theorem keyloadEffect_ws (n : BitVec 7) (c : CoreState) :
    (keyloadEffect n c).ws = c.ws := by rw [keyloadEffect]
@[simp] theorem keyloadEffect_t (n : BitVec 7) (c : CoreState) :
    (keyloadEffect n c).t = c.t := by rw [keyloadEffect]
@[simp] theorem keyloadEffect_q (n : BitVec 7) (c : CoreState) :
    (keyloadEffect n c).q = c.q := by rw [keyloadEffect]
@[simp] theorem keyloadEffect_fin (n : BitVec 7) (c : CoreState) :
    (keyloadEffect n c).fin = c.fin := by rw [keyloadEffect]
@[simp] theorem keyloadEffect_blk (n : BitVec 7) (c : CoreState) :
    (keyloadEffect n c).blk = c.blk := by rw [keyloadEffect]
@[simp] theorem keyloadEffect_k (n : BitVec 7) (c : CoreState) :
    (keyloadEffect n c).k = keyBlock (blkPrefix n c) := by rw [keyloadEffect]
@[simp] theorem keyloadEffect_mlen (n : BitVec 7) (c : CoreState) :
    (keyloadEffect n c).mlen = c.mlen := by rw [keyloadEffect]
@[simp] theorem keyloadEffect_dvalid (n : BitVec 7) (c : CoreState) :
    (keyloadEffect n c).dvalid = c.dvalid := by rw [keyloadEffect]
@[simp] theorem keyloadEffect_done (n : BitVec 7) (c : CoreState) :
    (keyloadEffect n c).done = true := by rw [keyloadEffect]
@[simp] theorem keyloadEffect_err (n : BitVec 7) (c : CoreState) :
    (keyloadEffect n c).err = c.err := by rw [keyloadEffect]
@[simp] theorem keyloadEffect_errcode (n : BitVec 7) (c : CoreState) :
    (keyloadEffect n c).errcode = c.errcode := by rw [keyloadEffect]
@[simp] theorem keyloadEffect_inten (n : BitVec 7) (c : CoreState) :
    (keyloadEffect n c).inten = c.inten := by rw [keyloadEffect]

/-! ### `keydigEffect` (R155) -/

@[simp] theorem keydigEffect_h (c : CoreState) : (keydigEffect c).h = c.h := by rw [keydigEffect]
@[simp] theorem keydigEffect_w (c : CoreState) : (keydigEffect c).w = c.w := by rw [keydigEffect]
@[simp] theorem keydigEffect_ws (c : CoreState) : (keydigEffect c).ws = c.ws := by rw [keydigEffect]
@[simp] theorem keydigEffect_t (c : CoreState) : (keydigEffect c).t = c.t := by rw [keydigEffect]
@[simp] theorem keydigEffect_q (c : CoreState) : (keydigEffect c).q = c.q := by rw [keydigEffect]
@[simp] theorem keydigEffect_fin (c : CoreState) : (keydigEffect c).fin = c.fin := by rw [keydigEffect]
@[simp] theorem keydigEffect_blk (c : CoreState) : (keydigEffect c).blk = c.blk := by rw [keydigEffect]
@[simp] theorem keydigEffect_k (c : CoreState) :
    (keydigEffect c).k = keyBlock (digestBytes c.h) := by rw [keydigEffect]
@[simp] theorem keydigEffect_mlen (c : CoreState) : (keydigEffect c).mlen = c.mlen := by rw [keydigEffect]
@[simp] theorem keydigEffect_dvalid (c : CoreState) : (keydigEffect c).dvalid = c.dvalid := by rw [keydigEffect]
@[simp] theorem keydigEffect_done (c : CoreState) : (keydigEffect c).done = true := by rw [keydigEffect]
@[simp] theorem keydigEffect_err (c : CoreState) : (keydigEffect c).err = c.err := by rw [keydigEffect]
@[simp] theorem keydigEffect_errcode (c : CoreState) : (keydigEffect c).errcode = c.errcode := by rw [keydigEffect]
@[simp] theorem keydigEffect_inten (c : CoreState) : (keydigEffect c).inten = c.inten := by rw [keydigEffect]

/-! ### `hmacInnerEffect` (R156) -/

@[simp] theorem hmacInnerEffect_h (c : CoreState) : (hmacInnerEffect c).h = iv := by simp [hmacInnerEffect]
@[simp] theorem hmacInnerEffect_w (c : CoreState) : (hmacInnerEffect c).w = workOf iv := by simp [hmacInnerEffect]
@[simp] theorem hmacInnerEffect_ws (c : CoreState) :
    (hmacInnerEffect c).ws = blockWords (innerPad c.k) := by simp [hmacInnerEffect]
@[simp] theorem hmacInnerEffect_t (c : CoreState) : (hmacInnerEffect c).t = 0 := by simp [hmacInnerEffect]
@[simp] theorem hmacInnerEffect_q (c : CoreState) :
    (hmacInnerEffect c).q = [innerPad c.k] := by simp [hmacInnerEffect]
@[simp] theorem hmacInnerEffect_fin (c : CoreState) : (hmacInnerEffect c).fin = false := by simp [hmacInnerEffect]
@[simp] theorem hmacInnerEffect_blk (c : CoreState) : (hmacInnerEffect c).blk = c.blk := by simp [hmacInnerEffect]
@[simp] theorem hmacInnerEffect_k (c : CoreState) : (hmacInnerEffect c).k = c.k := by simp [hmacInnerEffect]
@[simp] theorem hmacInnerEffect_mlen (c : CoreState) : (hmacInnerEffect c).mlen = 512 := by simp [hmacInnerEffect]
@[simp] theorem hmacInnerEffect_dvalid (c : CoreState) :
    (hmacInnerEffect c).dvalid = false := by simp [hmacInnerEffect]
@[simp] theorem hmacInnerEffect_done (c : CoreState) :
    (hmacInnerEffect c).done = c.done := by simp [hmacInnerEffect]
@[simp] theorem hmacInnerEffect_err (c : CoreState) : (hmacInnerEffect c).err = c.err := by simp [hmacInnerEffect]
@[simp] theorem hmacInnerEffect_errcode (c : CoreState) :
    (hmacInnerEffect c).errcode = c.errcode := by simp [hmacInnerEffect]
@[simp] theorem hmacInnerEffect_inten (c : CoreState) :
    (hmacInnerEffect c).inten = c.inten := by simp [hmacInnerEffect]

/-! ### `hmacOuterEffect` (R157) -/

@[simp] theorem hmacOuterEffect_h (c : CoreState) : (hmacOuterEffect c).h = iv := by simp [hmacOuterEffect]
@[simp] theorem hmacOuterEffect_w (c : CoreState) : (hmacOuterEffect c).w = workOf iv := by simp [hmacOuterEffect]
@[simp] theorem hmacOuterEffect_ws (c : CoreState) :
    (hmacOuterEffect c).ws = blockWords (outerPad c.k) := by simp [hmacOuterEffect]
@[simp] theorem hmacOuterEffect_t (c : CoreState) : (hmacOuterEffect c).t = 0 := by simp [hmacOuterEffect]
@[simp] theorem hmacOuterEffect_q (c : CoreState) :
    (hmacOuterEffect c).q = outerPad c.k :: outerTail c.h := by simp [hmacOuterEffect]
@[simp] theorem hmacOuterEffect_fin (c : CoreState) : (hmacOuterEffect c).fin = true := by simp [hmacOuterEffect]
@[simp] theorem hmacOuterEffect_blk (c : CoreState) : (hmacOuterEffect c).blk = c.blk := by simp [hmacOuterEffect]
@[simp] theorem hmacOuterEffect_k (c : CoreState) : (hmacOuterEffect c).k = c.k := by simp [hmacOuterEffect]
@[simp] theorem hmacOuterEffect_mlen (c : CoreState) : (hmacOuterEffect c).mlen = 672 := by simp [hmacOuterEffect]
@[simp] theorem hmacOuterEffect_dvalid (c : CoreState) :
    (hmacOuterEffect c).dvalid = false := by simp [hmacOuterEffect]
@[simp] theorem hmacOuterEffect_done (c : CoreState) :
    (hmacOuterEffect c).done = c.done := by simp [hmacOuterEffect]
@[simp] theorem hmacOuterEffect_err (c : CoreState) : (hmacOuterEffect c).err = c.err := by simp [hmacOuterEffect]
@[simp] theorem hmacOuterEffect_errcode (c : CoreState) :
    (hmacOuterEffect c).errcode = c.errcode := by simp [hmacOuterEffect]
@[simp] theorem hmacOuterEffect_inten (c : CoreState) :
    (hmacOuterEffect c).inten = c.inten := by simp [hmacOuterEffect]

/-! ### `clrerrEffect` (R184) -/

@[simp] theorem clrerrEffect_h (c : CoreState) : (clrerrEffect c).h = c.h := by simp [clrerrEffect]
@[simp] theorem clrerrEffect_w (c : CoreState) : (clrerrEffect c).w = c.w := by simp [clrerrEffect]
@[simp] theorem clrerrEffect_ws (c : CoreState) : (clrerrEffect c).ws = c.ws := by simp [clrerrEffect]
@[simp] theorem clrerrEffect_t (c : CoreState) : (clrerrEffect c).t = c.t := by simp [clrerrEffect]
@[simp] theorem clrerrEffect_q (c : CoreState) : (clrerrEffect c).q = c.q := by simp [clrerrEffect]
@[simp] theorem clrerrEffect_fin (c : CoreState) : (clrerrEffect c).fin = c.fin := by simp [clrerrEffect]
@[simp] theorem clrerrEffect_blk (c : CoreState) : (clrerrEffect c).blk = c.blk := by simp [clrerrEffect]
@[simp] theorem clrerrEffect_k (c : CoreState) : (clrerrEffect c).k = c.k := by simp [clrerrEffect]
@[simp] theorem clrerrEffect_mlen (c : CoreState) : (clrerrEffect c).mlen = c.mlen := by simp [clrerrEffect]
@[simp] theorem clrerrEffect_dvalid (c : CoreState) : (clrerrEffect c).dvalid = c.dvalid := by simp [clrerrEffect]
@[simp] theorem clrerrEffect_done (c : CoreState) : (clrerrEffect c).done = true := by simp [clrerrEffect]
@[simp] theorem clrerrEffect_err (c : CoreState) : (clrerrEffect c).err = false := by simp [clrerrEffect]
@[simp] theorem clrerrEffect_errcode (c : CoreState) : (clrerrEffect c).errcode = 0 := by simp [clrerrEffect]
@[simp] theorem clrerrEffect_inten (c : CoreState) : (clrerrEffect c).inten = c.inten := by simp [clrerrEffect]

/-! ### `sresetEffect` (R185) -/

@[simp] theorem sresetEffect_eq (c : CoreState) : sresetEffect c = CoreState.reset := rfl

end Sys2Proof.Machine
end

