-- ==== Sys2Proof/Laws/Ops.lean ====
section
/-! SUPPORT. One lemma per shared operation, saying once everything it can do: the checks (R181), the issue
of a command (R180 to R183), the register window (R53, R54), and the turn of each agent (R12). -/

namespace Sys2Proof.Machine

@[simp] theorem busy_eq_false_iff (c : CoreState) : busy c = false ↔ c.q = [] := by simp [busy]

@[simp] theorem busy_eq_true_iff (c : CoreState) : busy c = true ↔ c.q ≠ [] := by simp [busy]

/-! ### The checks (R181) -/

/-- The range check of R86 refuses exactly the ill-formed commands of R82. -/
theorem badCount_eq_not_wellFormed (i : Instr) : badCount i = !i.wellFormed := by
  have h (n : BitVec 7) : decide (64 < n.toNat) = !decide (n.toNat ≤ 64) := by
    rw [← decide_not]; exact decide_eq_decide.mpr Nat.not_le.symm
  cases i <;> first | exact h _ | rfl

/-- When a command passes the checks of R181. -/
theorem check_eq_none_iff (i : Instr) (c : CoreState) :
    check i c = none ↔
      (busy c = false ∨ isSreset i = true) ∧ i.wellFormed = true ∧ (needsDigest i = true → c.dvalid = true) := by
  unfold check
  rw [badCount_eq_not_wellFormed]
  cases busy c <;> cases isSreset i <;> cases i.wellFormed <;> cases needsDigest i <;> cases c.dvalid <;> simp

/-! ### The commands -/

/-- The rule of each command, run at acceptance (R183). -/
def effectOf : Instr → CoreState → CoreState
  | .init _ => initEffect
  | .process _ => processEffect
  | .final n => finalEffect n
  | .keyload n => keyloadEffect n
  | .keydig _ => keydigEffect
  | .hmacInner _ => hmacInnerEffect
  | .hmacOuter _ => hmacOuterEffect
  | .clrerr _ => clrerrEffect
  | .sreset _ => sresetEffect

theorem exec_eq_perform (i : Instr) (s : State) : exec i s = perform i (effectOf i) s := by cases i <;> rfl

/-- The core after the issue of a decoded command. -/
def coreAfter (i : Instr) (c : CoreState) : CoreState :=
  match check i c with
  | some e => reject e c
  | none => effectOf i { c with done := false }

/-- A decoded command always gives a next state, and touches the core alone. -/
theorem exec_eq (i : Instr) (s : State) : exec i s = .next { s with core := coreAfter i s.core } := by
  rw [exec_eq_perform, perform, coreAfter]
  split <;> simp_all

theorem coreAfter_accepted {i : Instr} {c : CoreState} (h : check i c = none) :
    coreAfter i c = effectOf i { c with done := false } := by simp [coreAfter, h]

theorem coreAfter_rejected {i : Instr} {c : CoreState} {e : ErrCode} (h : check i c = some e) :
    coreAfter i c = reject e c := by simp [coreAfter, h]

/-! ### The round step (R122) -/

theorem coreStep_of_lt {c : CoreState} (h : c.t.toNat < 79) : coreStep c = { roundStep c with t := c.t + 1 } := by
  simp [coreStep, h]

theorem coreStep_of_ge {c : CoreState} (h : 79 ≤ c.t.toNat) : coreStep c = endBlock (roundStep c) := by
  simp [coreStep, Nat.not_lt.mpr h]

theorem endBlock_next {c : CoreState} {b : Block} {rest : List Block} (h : c.q.tail = b :: rest) :
    endBlock c = load b { c with h := addWork c.h c.w, q := b :: rest } := by simp [endBlock, h]

theorem endBlock_last {c : CoreState} (h : c.q.tail = []) :
    endBlock c = { c with
      h := addWork c.h c.w, q := [], t := 0, done := true, dvalid := c.dvalid || c.fin, fin := false } := by
  simp [endBlock, h]

/-! ### The register window -/

/-- The core after the issue of a command word (R180). -/
def coreAfterWord (v : Word) (c : CoreState) : CoreState :=
  match decode v with
  | .illegal _ => reject .illegal c
  | .cmd i => coreAfter i c

theorem issue_eq (v : Word) (s : State) : issue v s = .next { s with core := coreAfterWord v s.core } := by
  unfold issue coreAfterWord
  split
  · simp_all
  · simp [exec_eq, *]

/-- The core after a write of a register (R54). -/
def coreAfterWrite (r : Reg) (v : Word) (c : CoreState) : CoreState :=
  match r with
  | .cmd => coreAfterWord v c
  | .inten => { c with inten := v.extractLsb' 0 2 }
  | .blk i => { c with blk := c.blk.set i v }
  | .id | .status | .mlenLo | .mlenHi | .digest _ | .reserved _ => c

/-- A register write always gives a next state, and touches the core alone. -/
theorem writeReg_eq (r : Reg) (v : Word) (s : State) :
    writeReg r v s = .next { s with core := coreAfterWrite r v s.core } := by
  cases r <;> simp [writeReg, coreAfterWrite, issue_eq]

/-! ### The turns -/

/-- What a host turn that goes on can do. -/
theorem hostTurn_cases {s t : State} (h : hostTurn s = .next t) :
    (s.prog = [] ∧ t = s) ∨
    (∃ size addr off ops, s.prog = .rd size addr :: ops ∧ windowOffset size addr = some off ∧
      t = hostRead off { s with prog := ops }) ∨
    (∃ size addr off v ops, s.prog = .wr size addr v :: ops ∧ windowOffset size addr = some off ∧
      t = { s with prog := ops, core := coreAfterWrite (regAt off) v s.core }) ∨
    (∃ ops, s.prog = .poll :: ops ∧ ((regRead 0x08 s.core)[0] = true ∧ t = hostRead 0x08 s ∨
      (regRead 0x08 s.core)[0] = false ∧ t = hostRead 0x08 { s with prog := ops })) ∨
    (∃ ops, s.prog = .waitIrq :: ops ∧ (irq s.core = true ∧ t = { s with prog := ops } ∨
      irq s.core = false ∧ t = s)) := by
  unfold hostTurn at h
  split at h
  · next hp => exact .inl ⟨hp, (Host.Outcome.next.inj h).symm⟩
  · next size addr ops hp =>
    split at h
    · next off ho => exact .inr (.inl ⟨size, addr, off, ops, hp, ho, (Host.Outcome.next.inj h).symm⟩)
    · simp at h
  · next size addr v ops hp =>
    split at h
    · next off ho =>
      rw [regWrite, writeReg_eq] at h
      exact .inr (.inr (.inl ⟨size, addr, off, v, ops, hp, ho, (Host.Outcome.next.inj h).symm⟩))
    · simp at h
  · next ops hp =>
    refine .inr (.inr (.inr (.inl ⟨ops, hp, ?_⟩)))
    split at h
    · next hb => exact .inl ⟨hb, (Host.Outcome.next.inj h).symm⟩
    · next hb => exact .inr ⟨by simpa using hb, (Host.Outcome.next.inj h).symm⟩
  · next ops hp =>
    refine .inr (.inr (.inr (.inr ⟨ops, hp, ?_⟩)))
    split at h
    · next hb => exact .inl ⟨hb, (Host.Outcome.next.inj h).symm⟩
    · next hb => exact .inr ⟨by simpa using hb, (Host.Outcome.next.inj h).symm⟩

/-- When a host turn stops: its next operation is an access outside the interface (R13, R55). -/
theorem hostTurn_refused {s : State} {r : Refusal} (h : hostTurn s = .refused r) :
    ∃ size addr ops, windowOffset size addr = none ∧ r = .outsideInterface size addr ∧
      (s.prog = .rd size addr :: ops ∨ ∃ v, s.prog = .wr size addr v :: ops) := by
  unfold hostTurn at h
  split at h
  · simp at h
  · next size addr ops hp =>
    split at h
    · simp at h
    · next ho => exact ⟨size, addr, ops, ho, (Host.Outcome.refused.inj h).symm, .inl hp⟩
  · next size addr v ops hp =>
    split at h
    · rw [regWrite, writeReg_eq] at h; simp at h
    · next ho => exact ⟨size, addr, ops, ho, (Host.Outcome.refused.inj h).symm, .inr ⟨v, hp⟩⟩
  · split at h <;> simp at h
  · split at h <;> simp at h

end Sys2Proof.Machine
end

