-- ==== Sys2Proof/Laws/PerInstr.lean ====
section
/-! SUPPORT. The family `CommandWord`: the fields of every command's word are its opcode, its operand and
a zero RSV (R81, R82). -/

namespace Sys2Proof.Laws.CommandWord

/-- The three fields of the command's word (R81). -/
def Statement (i : Instr) : Prop :=
  opField (encode i) = opcode i ∧ countField (encode i) = i.count ∧ rsvField (encode i) = 0

theorem init (n : BitVec 7) : Statement (.init n) := by simp [Statement, encode]
theorem process (n : BitVec 7) : Statement (.process n) := by simp [Statement, encode]
theorem final (n : BitVec 7) : Statement (.final n) := by simp [Statement, encode]
theorem keyload (n : BitVec 7) : Statement (.keyload n) := by simp [Statement, encode]
theorem keydig (n : BitVec 7) : Statement (.keydig n) := by simp [Statement, encode]
theorem hmacInner (n : BitVec 7) : Statement (.hmacInner n) := by simp [Statement, encode]
theorem hmacOuter (n : BitVec 7) : Statement (.hmacOuter n) := by simp [Statement, encode]
theorem clrerr (n : BitVec 7) : Statement (.clrerr n) := by simp [Statement, encode]
theorem sreset (n : BitVec 7) : Statement (.sreset n) := by simp [Statement, encode]

end Sys2Proof.Laws.CommandWord
end

