-- ==== Sys2Proof/Laws/Step.lean ====
section
/-! SUPPORT. What one step can do, by the agent whose turn it is (R12), and how runs compose. -/

namespace Sys2Proof.Machine

/-- The state an agent moves from: the turn is used up. -/
def popTurn (s : State) : State := { s with turns := s.turns.tail }

@[simp] theorem popTurn_core (s : State) : (popTurn s).core = s.core := rfl
@[simp] theorem popTurn_prog (s : State) : (popTurn s).prog = s.prog := rfl
@[simp] theorem popTurn_reads (s : State) : (popTurn s).reads = s.reads := rfl
@[simp] theorem popTurn_turns (s : State) : (popTurn s).turns = s.turns.tail := rfl

theorem step_core {s : State} (h : nextTurn s = .core) : step s = .next (coreTurn (popTurn s)) := by
  simp [step, h, takeTurn, popTurn]

theorem step_resetInput {s : State} (h : nextTurn s = .resetInput) : step s = .next (resetTurn (popTurn s)) := by
  simp [step, h, takeTurn, popTurn]

theorem step_host {s : State} (h : nextTurn s = .host) : step s = hostTurn (popTurn s) := by
  simp [step, h, takeTurn, popTurn]

/-- A step that goes on is one agent's turn. -/
theorem step_cases {s t : State} (h : step s = .next t) :
    (nextTurn s = .core ∧ t = coreTurn (popTurn s)) ∨
    (nextTurn s = .resetInput ∧ t = resetTurn (popTurn s)) ∨
    (nextTurn s = .host ∧ hostTurn (popTurn s) = .next t) := by
  cases hn : nextTurn s with
  | core => rw [step_core hn] at h; exact .inl ⟨rfl, (Host.Outcome.next.inj h).symm⟩
  | resetInput => rw [step_resetInput hn] at h; exact .inr (.inl ⟨rfl, (Host.Outcome.next.inj h).symm⟩)
  | host => rw [step_host hn] at h; exact .inr (.inr ⟨rfl, h⟩)

/-- What a step that goes on does to the core: a round, a reset, a register write by the host, or nothing. -/
theorem step_core_cases {s t : State} (h : step s = .next t) :
    (busy s.core = true ∧ t.core = coreStep s.core) ∨ t.core = CoreState.reset ∨
    (∃ r v, t.core = coreAfterWrite r v s.core) ∨ t.core = s.core := by
  obtain ⟨-, rfl⟩ | ⟨-, rfl⟩ | ⟨-, h⟩ := step_cases h
  · by_cases hb : busy s.core = true
    · exact .inl ⟨hb, by simp [hb]⟩
    · exact .inr (.inr (.inr (by simp [hb])))
  · exact .inr (.inl rfl)
  · obtain ⟨-, rfl⟩ | ⟨_, _, _, _, -, -, rfl⟩ | ⟨_, _, off, v, _, -, -, rfl⟩ | ⟨_, -, ⟨-, rfl⟩ | ⟨-, rfl⟩⟩ |
      ⟨_, -, ⟨-, rfl⟩ | ⟨-, rfl⟩⟩ := hostTurn_cases h
    · exact .inr (.inr (.inr rfl))
    · exact .inr (.inr (.inr rfl))
    · exact .inr (.inr (.inl ⟨_, _, rfl⟩))
    all_goals exact .inr (.inr (.inr rfl))

/-! ### Runs -/

theorem run_zero (s : State) : Sys2Proof.core.run 0 s = .next s := rfl

theorem run_succ {s t : State} (k : Nat) (h : step s = .next t) :
    Sys2Proof.core.run (k + 1) s = Sys2Proof.core.run k t := by
  have h' : Sys2Proof.core.step s = .next t := h
  simp only [Host.Core.run, h']

/-- Runs compose. -/
theorem run_add {s t : State} {k : Nat} (j : Nat) (h : Sys2Proof.core.run k s = .next t) :
    Sys2Proof.core.run (k + j) s = Sys2Proof.core.run j t := by
  induction k generalizing s with
  | zero => cases h; simp
  | succ k ih =>
    cases hs : step s with
    | next u => rw [run_succ k hs] at h; rw [Nat.succ_add, run_succ _ hs, ih h]
    | fault r => exact nomatch r
    | refused r =>
      have : Sys2Proof.core.run (k + 1) s = .refused r := by
        have h' : Sys2Proof.core.step s = .refused r := hs
        simp only [Host.Core.run, h']
      simp [this] at h

end Sys2Proof.Machine
end

