-- ==== Sys2Proof/Laws/Safety.lean ====
section
/-! SUPPORT. Sequences of core steps, and the state after a rejection (R122, R182). -/

namespace Sys2Proof

open Machine

@[simp] theorem coreSteps_zero (c : CoreState) : coreSteps 0 c = c := by simp [coreSteps]

theorem coreSteps_succ (k : Nat) (c : CoreState) : coreSteps (k + 1) c = coreSteps k (coreStep c) := by
  simp [coreSteps]

theorem coreSteps_succ' (k : Nat) (c : CoreState) : coreSteps (k + 1) c = coreStep (coreSteps k c) := by
  unfold coreSteps; exact Function.iterate_succ_apply' _ _ _

theorem coreSteps_add (j k : Nat) (c : CoreState) : coreSteps (j + k) c = coreSteps j (coreSteps k c) := by
  unfold coreSteps; exact Function.iterate_add_apply _ _ _ _

/-- A rejection of the model is the rejection the statements write out. -/
theorem rejectedWith_errBits (e : ErrCode) (s : State) :
    rejectedWith (errBits e) s = { s with core := reject e s.core } := by
  unfold rejectedWith reject; split <;> rfl

/-! ### What depends on the key (R159) -/

/-- Cores equal but for the key and the hashes, field by field. -/
theorem sameButHashes_iff (c d : CoreState) :
    SameButHashes c d ↔ d.q.length = c.q.length ∧ d.t = c.t ∧ d.fin = c.fin ∧ d.blk = c.blk ∧ d.mlen = c.mlen ∧
      d.dvalid = c.dvalid ∧ d.done = c.done ∧ d.err = c.err ∧ d.errcode = c.errcode ∧ d.inten = c.inten := by
  cases c; cases d; simp [SameButHashes]

theorem SameReadsButDigests.refl (r : List (Nat × Word)) : SameReadsButDigests r r :=
  List.forall₂_same.mpr fun _ _ => ⟨rfl, .inl rfl⟩

/-- Two reads of one offset keep the reads the same but for DIGEST when the values agree or the offset is one of
DIGEST. -/
theorem SameReadsButDigests.append {r r' : List (Nat × Word)} (h : SameReadsButDigests r r') {off : Nat} {v v' : Word}
    (hv : v = v' ∨ (0x80 ≤ off ∧ off ≤ 0x90)) : SameReadsButDigests (r ++ [(off, v)]) (r' ++ [(off, v')]) :=
  List.rel_append h (.cons ⟨rfl, hv⟩ .nil)

/-- Machines that differ in K alone differ in no more than K and what is computed from it. -/
theorem SameButKey.sameButDigests {s t : State} (h : SameButKey s t) : SameButDigests s t := by
  obtain ⟨k, rfl⟩ := h
  exact ⟨rfl, rfl, .refl _, rfl, rfl⟩

end Sys2Proof
end

