-- ==== Sys2Proof/Laws/Sha1.lean ====
section
/-! SUPPORT. The message schedule, the rounds and the compression (R105, R109). -/

namespace Sys2Proof

@[simp] theorem length_schedRev (b : Block) (k : Nat) : (schedRev b k).length = 16 + k := by
  induction k with
  | zero => simp [schedRev]
  | succ k ih => simp [schedRev, ih]; omega

@[simp] theorem length_schedule (b : Block) : (schedule b).length = 80 := by
  rw [schedule, List.length_reverse, length_schedRev]; rfl

/-- A schedule word, once computed, keeps its place counted from the oldest. -/
theorem getD_reverse_schedRev_succ (b : Block) {k j : Nat} (h : j < 16 + k) :
    (schedRev b (k + 1)).reverse.getD j 0 = (schedRev b k).reverse.getD j 0 := by
  rw [schedRev, List.reverse_cons, List.getD_append _ _ _ _ (by simpa using h)]

theorem getD_reverse_schedRev_add (b : Block) {k j : Nat} (h : j < 16 + k) (d : Nat) :
    (schedRev b (k + d)).reverse.getD j 0 = (schedRev b k).reverse.getD j 0 := by
  induction d with
  | zero => rfl
  | succ d ih => rw [← Nat.add_assoc, getD_reverse_schedRev_succ b (by omega), ih]

/-- Word j of the schedule is already word j of any list of schedule words long enough. -/
theorem schedWord_eq_getD {b : Block} {k j : Nat} (hk : k ≤ 64) (hj : j < 16 + k) :
    schedWord b j = (schedRev b k).reverse.getD j 0 := by
  rw [schedWord, schedule, ← getD_reverse_schedRev_add b hj (64 - k), Nat.add_sub_cancel' hk]; rfl

/-- The newest word of a list of schedule words, by the place counted from the newest. -/
theorem getD_schedRev {b : Block} {k i : Nat} (hk : k ≤ 64) (hi : i < 16 + k) :
    (schedRev b k).getD i 0 = schedWord b (15 + k - i) := by
  rw [schedWord_eq_getD hk (by omega)]
  simp only [List.getD_eq_getElem?_getD]
  rw [List.getElem?_reverse (by simp; omega)]
  congr 2
  simp; omega

@[simp] theorem workAfter_zero (h : Chain) (b : Block) : workAfter h b 0 = workOf h := rfl

theorem workAfter_succ (h : Chain) (b : Block) (k : Nat) :
    workAfter h b (k + 1) = round k (workAfter h b k) (schedWord b k) := rfl

theorem compress_eq (h : Chain) (b : Block) : compress h b = addWork h (workAfter h b 80) := by
  unfold compress; rfl

end Sys2Proof
end

