-- ==== Sys2Proof/Laws/Window.lean ====
section
/-! SUPPORT. The register window: which register stands at an offset (R40), and which accesses the interface
defines (R55). -/

namespace Sys2Proof.Machine

@[simp] theorem windowBytes_eq : Config.windowBytes = 256 := rfl

theorem sha1Base_eq : Config.sha1Base = 256 * Config.sha1Slot := rfl

@[simp] theorem regAt_blk (i : Fin 16) : regAt (0x40 + 4 * i.val) = .blk i := by
  revert i; decide

@[simp] theorem regAt_digest (i : Fin 5) : regAt (0x80 + 4 * i.val) = .digest i := by
  revert i; decide

theorem regAt_reserved {off : Nat} (h4 : off % 4 = 0) (h : (0x18 ≤ off ∧ off ≤ 0x3C) ∨ 0x94 ≤ off) :
    regAt off = .reserved off := by
  unfold regAt
  split_ifs <;> first | omega | rfl

theorem windowOffset_word {off : Nat} (h4 : off % 4 = 0) (h : off < 0x100) :
    windowOffset .word (.offset off) = some off := by
  simp [windowOffset, busOffset, h4, h]

/-- The accesses the interface does not define, by offset (R55). -/
theorem windowOffset_offset_eq_none {size : AccessSize} {off : Nat}
    (h : size ≠ .word ∨ off % 4 ≠ 0 ∨ 0x100 ≤ off) : windowOffset size (.offset off) = none := by
  cases size <;> simp [windowOffset, busOffset] at h ⊢
  omega

@[simp] theorem regOffset_blk (i : Fin 16) : regOffset (.blk i) = 0x40 + 4 * i.val := rfl
@[simp] theorem regOffset_digest (i : Fin 5) : regOffset (.digest i) = 0x80 + 4 * i.val := rfl

theorem windowOffset_blk (i : Fin 16) :
    windowOffset .word (.offset (0x40 + 4 * i.val)) = some (0x40 + 4 * i.val) :=
  windowOffset_word (by omega) (by omega)

theorem windowOffset_digest (i : Fin 5) :
    windowOffset .word (.offset (0x80 + 4 * i.val)) = some (0x80 + 4 * i.val) :=
  windowOffset_word (by omega) (by omega)

/-- Bit 0 of STATUS is BUSY (R43). -/
@[simp] theorem status_bit_zero (c : CoreState) : (status c)[0] = busy c := by
  simp [status, flagWord]

end Sys2Proof.Machine
end

