-- ==== Sys2Proof/Tests/Slice0.lean ====
section
/-! SUPPORT. Tests of one step each, with the results spec/95_test_vectors.md states, and a witness for the
hypotheses of every statement of Certificates/Slice0/Obligations.lean that has any. -/

namespace Sys2Proof.Tests

open Machine

/-! ### Small states -/

/-- A core whose digest is finished: DVALID = 1 and DONE = 1. -/
def hashed : CoreState := { CoreState.reset with dvalid := true, done := true }

/-- A core at the start of a one-block job of a block of zeros. -/
def running : CoreState := start [Vector.replicate 64 0] false CoreState.reset

/-- A core at the start of a two-block final job. -/
def runningTwo : CoreState := start [Vector.replicate 64 0, Vector.replicate 64 1] true CoreState.reset

/-- A core before the last round of a final job. -/
def lastRound : CoreState := { running with t := 79, fin := true }

/-- A core whose latch holds BUSY. -/
def latched : CoreState := { CoreState.reset with err := true, errcode := 2 }

/-- The core `c`, and a host about to run `ops`, with the turns `ts`. -/
def machine (c : CoreState) (ops : List HostOp) (ts : List Turn) : State :=
  { State.reset with core := c, prog := ops, turns := ts }

/-- The answer is a next state whose core passes the test. -/
def nextCore (o : Host.Outcome State Fault Refusal) (p : CoreState → Bool) : Bool :=
  match o with
  | .next s => p s.core
  | .fault _ => false
  | .refused _ => false

/-- The answer is a refusal. -/
def refuses (o : Host.Outcome State Fault Refusal) : Bool :=
  match o with
  | .refused _ => true
  | .next _ => false
  | .fault _ => false

/-- The next step from `c` issues the word `w`, and leaves a core that passes the test. -/
def issued (w : Nat) (c : CoreState) (p : CoreState → Bool) : Bool :=
  nextCore (step ((machine c [] []).withFetchWord 32 w)) p

/-- The word of STATUS right after the next step from `c` issues the word `w`. -/
def statusAfter (w : Nat) (c : CoreState) (v : Word) : Bool := issued w c fun d => regRead 0x08 d == v

/-- BLK holding the bytes 0x00..0x3F (V16). -/
def countingBlk : Words16 :=
  #v[0x00010203, 0x04050607, 0x08090A0B, 0x0C0D0E0F, 0x10111213, 0x14151617, 0x18191A1B, 0x1C1D1E1F,
    0x20212223, 0x24252627, 0x28292A2B, 0x2C2D2E2F, 0x30313233, 0x34353637, 0x38393A3B, 0x3C3D3E3F]

/-! ### WellFormed refuses an ill-formed term of each check (R82 to R84) -/

theorem test_wellFormed_init : (Instr.init 1).wellFormed = false := by decide
theorem test_wellFormed_process : (Instr.process 64).wellFormed = false := by decide
theorem test_wellFormed_final : (Instr.final 65).wellFormed = false := by decide
theorem test_wellFormed_final_64 : (Instr.final 64).wellFormed = true := by decide
theorem test_wellFormed_keyload : (Instr.keyload 65).wellFormed = false := by decide
theorem test_wellFormed_keyload_0 : (Instr.keyload 0).wellFormed = true := by decide
theorem test_wellFormed_keydig : (Instr.keydig 1).wellFormed = false := by decide
theorem test_wellFormed_hmacInner : (Instr.hmacInner 2).wellFormed = false := by decide
theorem test_wellFormed_hmacOuter : (Instr.hmacOuter 127).wellFormed = false := by decide
theorem test_wellFormed_clrerr : (Instr.clrerr 1).wellFormed = false := by decide
theorem test_wellFormed_sreset : (Instr.sreset 1).wellFormed = false := by decide

/-! ### Words written out from the format: RSV, N, OP (R81, R82) -/

theorem test_decode_init :
    decode 0b00000000000000000_0000000_00000001 = .cmd (.init 0) := by decide
theorem test_decode_process :
    decode 0b00000000000000000_0000000_00000010 = .cmd (.process 0) := by decide
theorem test_decode_final_56 :
    decode 0b00000000000000000_0111000_00000011 = .cmd (.final 56) := by decide
theorem test_decode_keyload_20 :
    decode 0b00000000000000000_0010100_00000100 = .cmd (.keyload 20) := by decide
theorem test_decode_keydig :
    decode 0b00000000000000000_0000000_00000101 = .cmd (.keydig 0) := by decide
theorem test_decode_hmacInner :
    decode 0b00000000000000000_0000000_00000110 = .cmd (.hmacInner 0) := by decide
theorem test_decode_hmacOuter :
    decode 0b00000000000000000_0000000_00000111 = .cmd (.hmacOuter 0) := by decide
theorem test_decode_clrerr :
    decode 0b00000000000000000_0000000_00001000 = .cmd (.clrerr 0) := by decide
theorem test_decode_sreset :
    decode 0b00000000000000000_0000000_00001001 = .cmd (.sreset 0) := by decide
theorem test_decode_keeps_bad_count : decode 0x00007F04 = .cmd (.keyload 127) := by decide
theorem test_decode_op_zero : decode 0x00000000 = .illegal .opZero := by decide
theorem test_decode_op_unassigned : decode 0x0000000A = .illegal .opUnassigned := by decide
theorem test_decode_bit_15 : decode 0x00008001 = .illegal .reservedBits := by decide
theorem test_decode_bit_31 : decode 0x80000003 = .illegal .reservedBits := by decide
theorem test_decodeTableWord : decodeTableWord 32 0x00001404 = some (.keyload 20) := by decide

/-! ### One step each (tables 2.1 to 2.3, 2.10 and 2.11) -/

theorem test_rotl_30 : rotl 30 0xEFCDAB89 = 0x7BF36AE2 := by decide
theorem test_roundFn_ch : roundFn 19 0xEFCDAB89 0x98BADCFE 0x10325476 = 0x98BADCFE := by decide
theorem test_roundFn_parity : roundFn 20 0xEFCDAB89 0x98BADCFE 0x10325476 = 0x67452301 := by decide
theorem test_roundFn_maj : roundFn 59 0xEFCDAB89 0x98BADCFE 0x10325476 = 0x98BADCFE := by decide
theorem test_roundK_40 : roundK 40 = 0x8F1BBCDC := by decide
theorem test_init_V1 : statusAfter 0x00000001 CoreState.reset 0x00000004 = true := by decide
theorem test_init_V25 :
    issued 0x00000001 { hashed with h := #v[1, 2, 3, 4, 5] } (fun c => !c.dvalid && regRead 0x80 c == 0x67452301) =
      true := by decide
theorem test_illegal_V6 : statusAfter 0x80000003 CoreState.reset 0x00000018 = true := by decide
theorem test_badlen_V9 : statusAfter 0x00007F04 CoreState.reset 0x00000038 = true := by decide
theorem test_final_V10 : statusAfter 0x00004003 CoreState.reset 0x00020001 = true := by decide +kernel
theorem test_final_V11 : issued 0x00003703 CoreState.reset (fun c => regRead 0x10 c == 0x1B8) = true := by
  decide +kernel
theorem test_seq_V13 : statusAfter 0x00000005 CoreState.reset 0x00000048 = true := by decide
theorem test_seq_V14 : statusAfter 0x00000007 CoreState.reset 0x00000048 = true := by decide
theorem test_hmacInner_V15 :
    issued 0x00000006 CoreState.reset (fun c => regRead 0x08 c == 0x00010001 && regRead 0x10 c == 0x200) = true := by
  decide
theorem test_keyload_V16 :
    issued 0x00004004 { CoreState.reset with blk := countingBlk }
      (fun c => c.k[0] == 0 && c.k[1] == 1 && c.k[62] == 0x3E && c.k[63] == 0x3F) = true := by decide
theorem test_keyload_bytes :
    issued 0x00000504 { CoreState.reset with blk := countingBlk } (fun c => c.k[4] == 4 && c.k[5] == 0) = true := by
  decide
theorem test_process_status : statusAfter 0x00000002 CoreState.reset 0x00010001 = true := by decide
theorem test_process_V27 :
    issued 0x00000002 { hashed with inten := 1 } (fun c => irq { hashed with inten := 1 } && !irq c) = true := by decide
theorem test_busy_V18 : statusAfter 0x00000303 { running with t := 5 } 0x00010529 = true := by decide
theorem test_clrerr_V19 : statusAfter 0x00000008 running 0x00010029 = true := by decide
theorem test_clrerr_V24 : statusAfter 0x00000008 latched 0x00000004 = true := by decide
theorem test_sreset_V20 : statusAfter 0x00000109 running 0x00010039 = true := by decide
theorem test_sreset_V22 : statusAfter 0x00000009 { running with t := 40 } 0x00000000 = true := by decide
theorem test_illegal_V21 : statusAfter 0x00008002 running 0x00010019 = true := by decide
theorem test_first_error_V23 : issued 0x00004103 latched (fun c => c.errcode == 2) = true := by decide
theorem test_keydig_V26 :
    issued 0x00000005 { hashed with h := #v[0xA9993E36, 0x4706816A, 0xBA3E2571, 0x7850C26C, 0x9CD0D89D] }
      (fun c => regRead 0x08 c == 0x6 && c.k[0] == 0xA9 && c.k[19] == 0x9D && c.k[20] == 0) = true := by decide
theorem test_hmacOuter_second_block :
    issued 0x00000007 hashed (fun c => (c.q.getD 1 (Vector.replicate 64 0))[20] == 0x80 &&
      (c.q.getD 1 (Vector.replicate 64 0))[62] == 0x02 && (c.q.getD 1 (Vector.replicate 64 0))[63] == 0xA0) = true := by
  decide
theorem test_core_turn :
    nextCore (step (machine { running with t := 78 } [] [.core])) (fun c => regRead 0x08 c == 0x00014F01) = true := by
  decide
theorem test_write_status_ignored :
    nextCore (step (machine CoreState.reset [wrReg .status 0xFFFFFFFF] [])) (fun c => regRead 0x08 c == 0) = true := by
  decide
theorem test_write_inten :
    nextCore (step (machine CoreState.reset [wrReg .inten 0xFFFFFFFF] [])) (fun c => regRead 0x0C c == 3) = true := by
  decide
theorem test_write_blk15_busy :
    nextCore (step (machine running [wrReg (.blk 15) 0xDEADBEEF] [.host]))
      (fun c => regRead 0x7C c == 0xDEADBEEF && c.ws[15] == 0) = true := by decide
theorem test_half_access_refused : refuses (step (machine CoreState.reset [.rd .half (.offset 0)] [])) = true := by decide

/-- The digest of "abc" (table 2.7). -/
theorem test_sha1_abc :
    sha1 [0x61, 0x62, 0x63] = [0xA9, 0x99, 0x3E, 0x36, 0x47, 0x06, 0x81, 0x6A, 0xBA, 0x3E, 0x25, 0x71, 0x78, 0x50,
      0xC2, 0x6C, 0x9C, 0xD0, 0xD8, 0x9D] := by decide +kernel

/-! ### Witnesses: hypotheses of the statements, met together by concrete states and operands

The word at a boundary of a clause stands in the theorem's name. -/

/-- The read hypotheses of RegReadMap at offset `off`. -/
def ReadsAt (off : Nat) : Prop :=
  nextTurn (machine running [.rd .word (.offset off)] [.host]) = .host ∧ off % 4 = 0 ∧ off ≤ 0xFC

/-- The write hypotheses of RegWriteMap at offset `off`. -/
def WritesAt (off : Nat) : Prop :=
  nextTurn (machine running [.wr .word (.offset off) 7] [.host]) = .host ∧ off % 4 = 0 ∧ off ≤ 0xFC

theorem witness_RegReadMap_first : ReadsAt 0x00 := by unfold ReadsAt; decide
theorem witness_RegReadMap_last : ReadsAt 0xFC := by unfold ReadsAt; decide
theorem witness_RegReadMap_zeros :
    ∀ off ∈ [0x04, 0x18, 0x3C, 0x94, 0xFC],
      off % 4 = 0 ∧ (off = 0x04 ∨ (0x18 ≤ off ∧ off ≤ 0x3C) ∨ (0x94 ≤ off ∧ off ≤ 0xFC)) := by decide
theorem witness_RegWriteMap_cmd : WritesAt 0x04 := by unfold WritesAt; decide
theorem witness_RegWriteMap_inten : WritesAt 0x0C := by unfold WritesAt; decide
theorem witness_RegWriteMap_blk : WritesAt (0x40 + 4 * (0 : Fin 16).val) ∧ WritesAt (0x40 + 4 * (15 : Fin 16).val) := by
  unfold WritesAt; decide
theorem witness_RegWriteMap_ignored :
    WritesAt 0x00 ∧ WritesAt 0x08 ∧ WritesAt 0x10 ∧ WritesAt 0x3C ∧ WritesAt 0x80 ∧ WritesAt 0xFC := by
  unfold WritesAt; decide

theorem coreInv_reset : CoreInv CoreState.reset :=
  ⟨by decide, by decide, by decide, by decide, by decide, by decide, by decide, by decide⟩
theorem coreInv_running : CoreInv running :=
  ⟨by decide, by decide, by decide, by decide, by decide, by decide, by decide, by decide⟩
theorem coreInv_runningTwo : CoreInv runningTwo :=
  ⟨by decide, by decide, by decide, by decide, by decide, by decide, by decide, by decide⟩
theorem coreInv_lastRound : CoreInv lastRound :=
  ⟨by decide, by decide, by decide, by decide, by decide, by decide, by decide, by decide⟩
theorem witness_StatusFields : CoreInv latched ∧ CoreInv hashed :=
  ⟨⟨by decide, by decide, by decide, by decide, by decide, by decide, by decide, by decide⟩,
    ⟨by decide, by decide, by decide, by decide, by decide, by decide, by decide, by decide⟩⟩

theorem witness_RddigReturnsDigestBytes :
    (machine hashed rddig [.host, .host, .host, .host, .host]).prog = rddig ++ [] ∧
      (machine hashed rddig [.host, .host, .host, .host, .host]).turns = List.replicate 5 .host ++ [] := by decide
theorem witness_WrblkFillsBlockBuffer_short :
    (List.replicate 3 (0x61 : Byte)).length ≤ 64 ∧
      (machine running (wrblk (List.replicate 3 0x61)) (List.replicate 16 .host)).prog =
        wrblk (List.replicate 3 0x61) ++ [] ∧
      (machine running (wrblk (List.replicate 3 0x61)) (List.replicate 16 .host)).turns =
        List.replicate 16 .host ++ [] := ⟨by decide, by simp [machine], by decide⟩
theorem witness_WrblkFillsBlockBuffer_full : (List.replicate 64 (0x61 : Byte)).length ≤ 64 := by simp
theorem witness_BusAddressIsBasePlusOffset : Config.sha1Base + 256 ≤ Config.sha1Base + 256 := Nat.le_refl _
theorem witness_AccessOutsideInterfaceRefused_size :
    nextTurn (machine CoreState.reset [.rd .byte (.offset 0)] []) = .host ∧ AccessSize.byte ≠ .word := by decide
theorem witness_AccessOutsideInterfaceRefused_unaligned :
    nextTurn (machine CoreState.reset [.wr .word (.offset 0x42) 1] []) = .host ∧ 0x42 % 4 ≠ 0 := by decide
theorem witness_AccessOutsideInterfaceRefused_above :
    nextTurn (machine CoreState.reset [.wr .word (.offset 0x100) 1] []) = .host ∧ 0x100 ≤ 0x100 := by decide
theorem witness_InsideInterfaceNeverStops :
    ∀ op ∈ (machine running [.rd .word (.offset 0xFC), .wr .word (.offset 0x04) 9, .poll, .waitIrq] []).prog,
      insideInterface op = true := by decide

theorem witness_EncodeDecodeAgree : decode 0x00004103 = .cmd (.final 65) := by decide
theorem witness_IllegalWordsRejected_op_zero : (0x00000000 : Word).extractLsb' 0 8 = (0 : Byte) := by decide
theorem witness_IllegalWordsRejected_op_first : 0x0A ≤ ((0x0000000A : Word).extractLsb' 0 8).toNat := by decide
theorem witness_IllegalWordsRejected_op_last : 0x0A ≤ ((0x000000FF : Word).extractLsb' 0 8).toNat := by decide
theorem witness_IllegalWordsRejected_rsv : (0x00008001 : Word).extractLsb' 15 17 ≠ 0 := by decide
theorem witness_BadCountRejected_above_64 :
    64 < (65 : BitVec 7).toNat ∧ busy (machine hashed [] []).core = false := by decide
theorem witness_BadCountRejected_not_zero : (1 : BitVec 7) ≠ 0 ∧ busy (machine hashed [] []).core = false := by decide

theorem witness_TailPaddingBlocks_one : (List.replicate 55 (0 : Byte)).length ≤ 55 := by decide
theorem witness_TailPaddingBlocks_two :
    56 ≤ (List.replicate 56 (0 : Byte)).length ∧ (List.replicate 63 (0 : Byte)).length ≤ 63 := by decide
theorem witness_TailPaddingBlocks_full : (List.replicate 64 (0 : Byte)).length = 64 := by decide
theorem witness_TailPaddingBlocks_chunks : (List.replicate 128 (0 : Byte)).length % 64 = 0 := by rw [List.length_replicate]
theorem witness_ScheduleRecurrence : 16 ≤ 16 ∧ 79 < 80 := by decide
theorem witness_RoundFunctionsBitwise : 19 ≤ 19 ∧ 20 ≤ 39 ∧ 40 ≤ 59 ∧ 60 ≤ 79 ∧ 79 < 80 := by decide
theorem witness_RotationMovesBits : 0 < 1 ∧ 30 < 32 ∧ 31 < 32 := by decide

/-- InitResult, ProcessResult, FinalResult, KeyloadResult, HmacInnerResult and ClrerrResult, idle. -/
theorem witness_idle : busy (machine hashed [] []).core = false := by decide
theorem witness_FinalResult_one : (55 : BitVec 7).toNat ≤ 64 ∧ busy (machine CoreState.reset [] []).core = false := by
  decide
theorem witness_FinalResult_two : (64 : BitVec 7).toNat ≤ 64 ∧ busy (machine CoreState.reset [] []).core = false := by
  decide
theorem witness_KeyloadResult : (64 : BitVec 7).toNat ≤ 64 ∧ busy (machine CoreState.reset [] []).core = false := by
  decide
theorem witness_KeydigResult_HmacOuterResult :
    busy (machine hashed [] []).core = false ∧ (machine hashed [] []).core.dvalid = true := by decide
theorem witness_ClrerrResult_busy : busy (machine running [] []).core = true := by decide
theorem witness_SresetResult : (machine running [] [.resetInput]).turns = .resetInput :: [] := by decide
theorem witness_BusyRejected : busy (machine running [] []).core = true ∧ ∀ n, Instr.keyload 65 ≠ .sreset n :=
  ⟨by decide, by simp⟩
theorem witness_SequenceErrorRejected :
    busy (machine CoreState.reset [] []).core = false ∧ (machine CoreState.reset [] []).core.dvalid = false := by decide
theorem witness_RejectionPriority :
    decode 0x00008002 = .illegal .reservedBits ∧ decode 0x00004103 = .cmd (.final 65) ∧
      busy (machine running [] []).core = true ∧ busy (machine CoreState.reset [] []).core = false ∧
      (machine CoreState.reset [] []).core.dvalid = false := by decide
theorem witness_CommandStepCounts_final : check (.final 64) CoreState.reset = none := by decide
theorem witness_CommandStepCounts_hmacOuter : check (.hmacOuter 0) hashed = none := by decide
theorem witness_CommandStepCounts_sreset : check (.sreset 0) running = none := by decide

theorem witness_CoreTurnRunsOneRound_busy :
    (machine { running with t := 78 } [] [.core]).turns = .core :: [] ∧
      busy (machine { running with t := 78 } [] [.core]).core = true ∧
      (machine { running with t := 78 } [] [.core]).core.t.toNat < 79 := by decide
theorem witness_CoreTurnRunsOneRound_idle :
    (machine hashed [] [.core]).turns = .core :: [] ∧ busy (machine hashed [] [.core]).core = false := by decide
theorem witness_LastRoundEndsBlock_next :
    (machine { runningTwo with t := 79 } [] [.core]).turns = .core :: [] ∧
      (machine { runningTwo with t := 79 } [] [.core]).core.t = 79 ∧
      (machine { runningTwo with t := 79 } [] [.core]).core.q =
        Vector.replicate 64 0 :: [Vector.replicate 64 1] := ⟨by decide, by decide, rfl⟩
theorem witness_LastRoundEndsBlock_last :
    (machine lastRound [] [.core]).turns = .core :: [] ∧ (machine lastRound [] [.core]).core.t = 79 ∧
      (machine lastRound [] [.core]).core.q = Vector.replicate 64 0 :: [] := ⟨by decide, by decide, rfl⟩

/-- The window of a block right after it is loaded (R120). -/
theorem witness_WindowHoldsSchedule : WindowAt (Vector.replicate 64 0) 0 (blockWords (Vector.replicate 64 0)) := by
  intro i h1 _
  have hi : i < 16 := by simpa using h1
  rw [schedWord_eq_getD (k := 0) (by decide) hi]
  simp [schedRev, List.getD_eq_getElem?_getD, Nat.mod_eq_of_lt hi, hi]

theorem witness_JobComputesCompression :
    [(Vector.replicate 64 0 : Block)].length = 1 ∧
      [(Vector.replicate 64 0 : Block), Vector.replicate 64 1].length = 2 := by decide
theorem witness_JobUnderAnyInterleaving :
    (machine runningTwo [.rd .word (.offset 0x80), .wr .word (.offset 0x40) 5, .poll] [.host, .core, .host]).core =
        start [Vector.replicate 64 0, Vector.replicate 64 1] true CoreState.reset ∧
      (∀ op ∈ (machine runningTwo [.rd .word (.offset 0x80), .wr .word (.offset 0x40) 5, .poll]
          [.host, .core, .host]).prog, insideInterface op = true ∧ notCommand op = true) ∧
      Turn.resetInput ∉ (machine runningTwo [.rd .word (.offset 0x80), .wr .word (.offset 0x40) 5, .poll]
          [.host, .core, .host]).turns := ⟨rfl, by decide, by decide⟩
theorem witness_JobUnderAnyInterleaving_counts :
    (List.replicate 79 Turn.core).count .core < 80 * 1 ∧ 80 * 2 ≤ (List.replicate 160 Turn.core).count .core := by
  simp
theorem witness_DigestKeepsChainingValueDuringBlock : [(Vector.replicate 64 0 : Block)] ≠ [] ∧ 79 < 80 := by decide

theorem witness_CommandFrame : ∀ n, Instr.clrerr 0 ≠ .sreset n := by simp
theorem witness_CoreStepFrame : { running with t := 78 }.t.toNat < 79 := by decide

/-- A step that changes K: KEYLOAD 64 of a buffer that is not zero. -/
theorem witness_KeyChangesOnlyByKeyCommands :
    nextCore (step (machine { CoreState.reset with blk := countingBlk } [cmdOp (.keyload 64)] []))
      (fun c => c.k[63] != CoreState.reset.k[63]) = true := by decide
/-- A step that changes BLK[15]: a host write. -/
theorem witness_BlockBufferChangesOnlyByHost :
    nextCore (step (machine running [wrReg (.blk 15) 7] [.host])) (fun c => c.blk[15] != running.blk[15]) = true := by
  decide
theorem witness_FirstErrorKept :
    nextCore (step (machine latched [cmdOp (.init 0)] [])) (fun c => c.err) = true ∧ latched.err = true := by decide
theorem witness_DigestValidRises :
    lastRound.dvalid = false ∧ nextCore (step (machine lastRound [] [.core])) (fun c => c.dvalid) = true := by
  decide +kernel
theorem witness_DigestValidFalls :
    hashed.dvalid = true ∧ nextCore (step (machine hashed [cmdOp (.init 0)] [])) (fun c => !c.dvalid) = true := by decide

theorem witness_StepKeepsCoreInv :
    CoreInv (machine lastRound [] [.core]).core ∧
      nextCore (step (machine lastRound [] [.core])) (fun c => !busy c) = true := ⟨coreInv_lastRound, by decide +kernel⟩
theorem witness_StepKeepsJobInv :
    JobInv (machine running [] [.core]).core ∧
      nextCore (step (machine running [] [.core])) (fun c => c.t == 1) = true := by
  refine ⟨fun b rest h => ?_, by decide⟩
  have hb : b = Vector.replicate 64 0 := (List.cons.inj h).1.symm
  subst hb
  exact ⟨rfl, witness_WindowHoldsSchedule⟩

theorem witness_StepRunsDecodedCommand :
    nextTurn (machine running [.wr .word (.offset 0x04) 0x00004103] [.host]) = .host ∧
      decode 0x00004103 = .cmd (.final 65) := by decide
theorem witness_PollWaitsForIdle_busy :
    nextTurn (machine runningTwo [.poll] [.host]) = .host ∧ CoreInv (machine runningTwo [.poll] [.host]).core ∧
      busy (machine runningTwo [.poll] [.host]).core = true := ⟨by decide, coreInv_runningTwo, by decide⟩
theorem witness_PollWaitsForIdle_idle :
    nextTurn (machine CoreState.reset [.poll] []) = .host ∧ CoreInv (machine CoreState.reset [.poll] []).core :=
  ⟨by decide, coreInv_reset⟩
theorem witness_IrqWaitEndsWithIrq :
    nextTurn (machine { hashed with inten := 1 } [.waitIrq] []) = .host ∧ irq { hashed with inten := 1 } = true ∧
      irq hashed = false := by decide
theorem witness_DigestStaysWhileValid :
    CoreInv (machine hashed [cmdOp (.clrerr 0)] []).core ∧ hashed.dvalid = true ∧
      nextCore (step (machine hashed [cmdOp (.clrerr 0)] [])) (fun c => c.dvalid) = true :=
  ⟨witness_StatusFields.2, by decide, by decide⟩
theorem witness_KeyStaysConfidential :
    SameButKey (machine hashed [rdReg (.digest 0)] [])
        (machine { hashed with k := Vector.replicate 64 1 } [rdReg (.digest 0)] []) ∧
      nextCore (step (machine hashed [rdReg (.digest 0)] [])) (fun _ => true) = true := ⟨⟨_, rfl⟩, by decide⟩
/-- The key register of the witness above does differ. -/
theorem witness_KeyStaysConfidential_differs : hashed.k[0] ≠ (Vector.replicate 64 (1 : Byte))[0] := by decide

/-- Two machines that differ in K, and a step of theirs that accepts HMAC_INNER. -/
theorem witness_KeyReachesHostOnlyThroughDigests :
    SameButDigests (machine hashed [cmdOp (.hmacInner 0)] [])
        (machine { hashed with k := Vector.replicate 64 1 } [cmdOp (.hmacInner 0)] []) ∧
      check (.hmacInner 0) hashed = none ∧
      nextCore (step (machine hashed [cmdOp (.hmacInner 0)] [])) (fun c => busy c) = true :=
  ⟨SameButKey.sameButDigests ⟨_, rfl⟩, by decide, by decide⟩
/-- Two machines after such a step, their host having read different values of DIGEST0. -/
theorem witness_KeyReachesHostOnlyThroughDigests_reads :
    SameButDigests { machine { hashed with h := #v[1, 2, 3, 4, 5] } [] [] with reads := [(0x80, 1)] }
        { machine { hashed with h := #v[9, 2, 3, 4, 5] } [] [] with reads := [(0x80, 9)] } ∧
      SameButHashes { hashed with h := #v[1, 2, 3, 4, 5] } { hashed with h := #v[9, 2, 3, 4, 5] } :=
  ⟨⟨rfl, rfl, .cons ⟨rfl, .inr (by decide)⟩ .nil, rfl, rfl⟩, rfl, rfl⟩

theorem witness_Sha1ProcedureComputesSha1 :
    busy (machine hashed (sha1msg [0x61, 0x62, 0x63]) [.core, .host]).core = false ∧
      (machine hashed (sha1msg [0x61, 0x62, 0x63]) [.core, .host]).prog = sha1msg [0x61, 0x62, 0x63] ∧
      Turn.resetInput ∉ (machine hashed (sha1msg [0x61, 0x62, 0x63]) [.core, .host]).turns :=
  ⟨by decide, rfl, by decide⟩
theorem witness_HmacProcedureComputesHmac :
    busy (machine latched (hmackey [0x0B] ++ hmacmsg [0x61]) [.core, .host]).core = false ∧
      (machine latched (hmackey [0x0B] ++ hmacmsg [0x61]) [.core, .host]).prog = hmackey [0x0B] ++ hmacmsg [0x61] ∧
      Turn.resetInput ∉ (machine latched (hmackey [0x0B] ++ hmacmsg [0x61]) [.core, .host]).turns :=
  ⟨by decide, rfl, by decide⟩
theorem witness_HashAfterResetNeedsNoInit : Turn.resetInput ∉ [Turn.host, .core] := by decide

end Sys2Proof.Tests
end

section
/-! PROOFS. The scope (00_scope.md): with accesses inside the interface alone no step stops (R13, R200), and
`rotl` as a permutation of bits (R8). -/

namespace Sys2Proof.Machine

/-! ### The host's remaining operations (R60) -/

/-- A host turn uses up operations from the front alone. -/
theorem hostTurn_prog_suffix {s t : State} (h : hostTurn s = .next t) : t.prog <:+ s.prog := by
  obtain ⟨hp, rfl⟩ | ⟨_, _, _, _, hp, -, rfl⟩ | ⟨_, _, _, _, _, hp, -, rfl⟩ |
    ⟨_, hp, ⟨-, rfl⟩ | ⟨-, rfl⟩⟩ | ⟨_, hp, ⟨-, rfl⟩ | ⟨-, rfl⟩⟩ := hostTurn_cases h <;> simp [hp]

/-- A step uses up host operations from the front alone, whoever takes it. -/
theorem step_prog_suffix {s t : State} (h : step s = .next t) : t.prog <:+ s.prog := by
  obtain ⟨-, rfl⟩ | ⟨-, rfl⟩ | ⟨-, h⟩ := step_cases h
  · simp
  · simp
  · simpa using hostTurn_prog_suffix h

/-! ### Steps that stop (R13, R55) -/

/-- A step stops only at a host turn. -/
theorem step_refused {s : State} {r : Refusal} (h : step s = .refused r) : hostTurn (popTurn s) = .refused r := by
  cases hn : nextTurn s with
  | host => rwa [step_host hn] at h
  | core => simp [step_core hn] at h
  | resetInput => simp [step_resetInput hn] at h

/-- The operation at which a step stops is one outside the interface. -/
theorem exists_outside_of_step_refused {s : State} {r : Refusal} (h : step s = .refused r) :
    ∃ op ∈ s.prog, insideInterface op = false := by
  obtain ⟨size, addr, ops, ho, -, hp | ⟨v, hp⟩⟩ := hostTurn_refused (step_refused h)
  · exact ⟨.rd size addr, by simp_all, by simp [insideInterface, ho]⟩
  · exact ⟨.wr size addr v, by simp_all, by simp [insideInterface, ho]⟩

/-- Settles O10: the core has no fault, and a refusal would need an operation outside the interface. -/
theorem insideInterfaceNeverStops : Obligations.InsideInterfaceNeverStops := by
  intro s hin
  cases hs : step s with
  | next t => exact ⟨t, rfl, fun op hop => hin op ((step_prog_suffix hs).mem hop)⟩
  | fault r => exact nomatch r
  | refused r =>
    obtain ⟨op, hop, hout⟩ := exists_outside_of_step_refused hs
    simp [hin op hop] at hout

end Sys2Proof.Machine

namespace Sys2Proof

/-! ### Rotation (R8) -/

/-- `rotl` is the library's rotation of a word. -/
theorem rotl_eq_rotateLeft {s : Nat} (hs : s < 32) (x : Word) : rotl s x = x.rotateLeft s := by
  rw [rotl, BitVec.rotateLeft_def, Nat.mod_eq_of_lt hs]

/-- Settles O19: bit i stays inside the word and moves up by s, or passes bit 31 and comes in again at
i + s - 32. -/
theorem rotationMovesBits : Obligations.RotationMovesBits := by
  intro s i x _ hs hi
  rw [rotl_eq_rotateLeft hs, BitVec.getLsbD_rotateLeft, Nat.mod_eq_of_lt hs]
  obtain h | h : i + s < 32 ∨ 32 ≤ i + s := Nat.lt_or_ge _ _
  · simp [Nat.mod_eq_of_lt h, h]
  · have hmod : (i + s) % 32 = i + s - 32 := by omega
    have hlow : i + s - 32 < s := by omega
    have hback : 32 - s + (i + s - 32) = i := by omega
    simp [hmod, hlow, hback]

end Sys2Proof
end

section
/-! PROOFS. What a step does to the core (R12, R36): one inductive over the agents' turns, from which every claim
about what a step changes follows, and what the rule of a command leaves unchanged. -/

namespace Sys2Proof.Machine

/-! ### Register offsets (R40) -/

/-- The interface defines accesses at aligned offsets inside the window alone (R55). -/
theorem aligned_of_windowOffset {size : AccessSize} {addr : BusAddr} {off : Nat}
    (h : windowOffset size addr = some off) : off % 4 = 0 ∧ off < 256 := by
  unfold windowOffset at h
  split at h
  · split_ifs at h with ha
    cases h
    exact ha
  · simp at h

theorem offset_of_regAt_cmd {off : Nat} (h : regAt off = .cmd) : off = 0x04 := by
  unfold regAt at h
  split_ifs at h with _ hcmd
  exact hcmd

theorem offset_of_regAt_blk {off : Nat} {j : Fin 16} (h4 : off % 4 = 0) (h : regAt off = .blk j) :
    off = 0x40 + 4 * j.val := by
  unfold regAt at h
  split_ifs at h with _ _ _ _ _ _ hblk
  cases h
  simp only
  omega

/-! ### The changes of the core -/

/-- The next step is a host write of `v` to BLK[j] (R44, R54). -/
def WritesBlk (s : State) (j : Fin 16) (v : Word) : Prop :=
  nextTurn s = .host ∧ ∃ size addr ops, s.prog = .wr size addr v :: ops ∧
    windowOffset size addr = some (0x40 + 4 * j.val)

/-- What a step from `s` to `t` can do to the core, and whose doing it is (R12, R36). -/
inductive CoreChange (s t : State) : Prop where
  | keep (h : t.core = s.core)
  | round (turn : nextTurn s = .core) (hb : busy s.core = true) (h : t.core = coreStep s.core)
  | reset (turn : nextTurn s = .resetInput) (h : t.core = CoreState.reset)
  | accept (i : Instr) (ha : AcceptsCommand s i) (h : t.core = effectOf i { s.core with done := false })
  | reject (e : ErrCode) (h : t.core = reject e s.core)
  | writeInten (v : BitVec 2) (h : t.core = { s.core with inten := v })
  | writeBlk (j : Fin 16) (v : Word) (hw : WritesBlk s j v) (h : t.core = { s.core with blk := s.core.blk.set j v })

/-- A host write changes the core by a command, by INTEN or BLK, or not at all (R54, R180). -/
theorem coreChange_of_write {s t : State} {size : AccessSize} {addr : BusAddr} {off : Nat} {v : Word}
    {ops : List HostOp} (hn : nextTurn s = .host) (hp : s.prog = .wr size addr v :: ops)
    (ho : windowOffset size addr = some off) (h : t.core = coreAfterWrite (regAt off) v s.core) :
    CoreChange s t := by
  cases hr : regAt off with
  | cmd =>
    rw [hr, coreAfterWrite, coreAfterWord] at h
    rw [offset_of_regAt_cmd hr] at ho
    split at h
    · exact .reject _ h
    · next i hi =>
      cases hc : check i s.core with
      | some e => exact .reject e (h.trans (coreAfter_rejected hc))
      | none => exact .accept i ⟨⟨hn, size, addr, v, ops, hp, ho, hi⟩, hc⟩ (h.trans (coreAfter_accepted hc))
  | inten => exact .writeInten _ (by rw [h, hr, coreAfterWrite])
  | blk j =>
    rw [offset_of_regAt_blk (aligned_of_windowOffset ho).1 hr] at ho
    exact .writeBlk j v ⟨hn, size, addr, ops, hp, ho⟩ (by rw [h, hr, coreAfterWrite])
  | _ => exact .keep (by rw [h, hr, coreAfterWrite])

theorem coreChange_of_step {s t : State} (h : step s = .next t) : CoreChange s t := by
  obtain ⟨hn, rfl⟩ | ⟨hn, rfl⟩ | ⟨hn, h⟩ := step_cases h
  · cases hb : busy s.core with
    | true => exact .round hn hb (by simp only [coreTurn_core, popTurn_core, hb, if_true])
    | false => exact .keep (by simp only [coreTurn_core, popTurn_core, hb, Bool.false_eq_true, if_false])
  · exact .reset hn rfl
  · obtain ⟨-, rfl⟩ | ⟨_, _, _, _, -, -, rfl⟩ | ⟨_, _, _, _, _, hp, ho, rfl⟩ | ⟨_, -, ⟨-, rfl⟩ | ⟨-, rfl⟩⟩ |
      ⟨_, -, ⟨-, rfl⟩ | ⟨-, rfl⟩⟩ := hostTurn_cases h
    · exact .keep rfl
    · exact .keep rfl
    · exact coreChange_of_write hn hp ho rfl
    all_goals exact .keep rfl

/-- The core accepts no command but SRESET while it is busy (R181). -/
theorem queue_eq_nil_of_accepted {i : Instr} {c : CoreState} (hc : check i c = none) (hs : isSreset i = false) :
    c.q = [] := by
  obtain ⟨hb, -, -⟩ := (check_eq_none_iff i c).mp hc
  exact (busy_eq_false_iff c).mp (hb.resolve_right (by simp [hs]))

/-! ### What the rule of a command leaves unchanged (R36) -/

/-- The commands whose acceptance clears DVALID (R31). -/
def clearsDigest : Instr → Bool
  | .init _ | .process _ | .final _ | .hmacInner _ | .hmacOuter _ | .sreset _ => true
  | .keyload _ | .keydig _ | .clrerr _ => false

section
variable {i : Instr} (c : CoreState)

theorem effectOf_dvalid : (effectOf i c).dvalid = (c.dvalid && !clearsDigest i) := by
  cases i <;> simp [effectOf, clearsDigest, CoreState.reset]

/-- H is kept by every command that keeps the finished digest. -/
theorem effectOf_h_of_not_clearsDigest (hi : clearsDigest i = false) : (effectOf i c).h = c.h := by
  cases i <;> simp [effectOf, clearsDigest] at hi ⊢

theorem effectOf_blk (hs : ∀ n, i ≠ .sreset n) : (effectOf i c).blk = c.blk := by
  cases i <;> simp [effectOf] at hs ⊢

theorem effectOf_inten (hs : ∀ n, i ≠ .sreset n) : (effectOf i c).inten = c.inten := by
  cases i <;> simp [effectOf] at hs ⊢

theorem effectOf_k (hs : ∀ n, i ≠ .sreset n) (hk : ∀ n, i ≠ .keyload n) (hd : ∀ n, i ≠ .keydig n) :
    (effectOf i c).k = c.k := by
  cases i <;> simp [effectOf] at hs hk hd ⊢

theorem effectOf_h (hs : ∀ n, i ≠ .sreset n) (hi : ∀ n, i ≠ .init n) (hin : ∀ n, i ≠ .hmacInner n)
    (hout : ∀ n, i ≠ .hmacOuter n) : (effectOf i c).h = c.h := by
  cases i <;> simp [effectOf] at hs hi hin hout ⊢

theorem effectOf_latch (hs : ∀ n, i ≠ .sreset n) (hc : ∀ n, i ≠ .clrerr n) :
    (effectOf i c).err = c.err ∧ (effectOf i c).errcode = c.errcode := by
  cases i <;> simp [effectOf] at hs hc ⊢

/-- Only the four commands that start a job touch the registers of the job. -/
theorem effectOf_job (hs : ∀ n, i ≠ .sreset n) (hp : ∀ n, i ≠ .process n) (hf : ∀ n, i ≠ .final n)
    (hin : ∀ n, i ≠ .hmacInner n) (hout : ∀ n, i ≠ .hmacOuter n) :
    (effectOf i c).w = c.w ∧ (effectOf i c).ws = c.ws ∧ (effectOf i c).t = c.t ∧ (effectOf i c).q = c.q ∧
      (effectOf i c).fin = c.fin := by
  cases i <;> simp [effectOf] at hs hp hf hin hout ⊢

theorem effectOf_message (hs : ∀ n, i ≠ .sreset n) (hp : ∀ n, i ≠ .process n) (hf : ∀ n, i ≠ .final n)
    (hin : ∀ n, i ≠ .hmacInner n) (hout : ∀ n, i ≠ .hmacOuter n) (hi : ∀ n, i ≠ .init n) :
    (effectOf i c).mlen = c.mlen ∧ (effectOf i c).dvalid = c.dvalid := by
  cases i <;> simp [effectOf] at hs hp hf hin hout hi ⊢

end

end Sys2Proof.Machine
end

section
/-! PROOFS. The core invariant (R24, R27, R29 to R33, R201): it holds at reset and every step keeps it. -/

namespace Sys2Proof

open Machine

/-! ### What is kept beside the job: the error latch and the bit counter (R30, R33, R201) -/

/-- The part of the core invariant that no job touches. -/
structure LatchInv (c : CoreState) : Prop where
  errcode_zero_iff : c.errcode = 0 ↔ c.err = false
  errcode_le : c.errcode.toNat ≤ 4
  mlen_bytes : c.mlen.toNat % 8 = 0

theorem CoreInv.latchInv {c : CoreState} (h : CoreInv c) : LatchInv c :=
  ⟨h.errcode_zero_iff, h.errcode_le, h.mlen_bytes⟩

/-- 512 bits and 8n bits are whole bytes (R6, R115). -/
theorem mlen_add_bytes {m k : BitVec 64} (hm : m.toNat % 8 = 0) (hk : k.toNat % 8 = 0) : (m + k).toNat % 8 = 0 := by
  rw [BitVec.toNat_add]; omega

theorem bitsOf_bytes (n : BitVec 7) : (bitsOf n).toNat % 8 = 0 := by
  have h8 : (8 : BitVec 64).toNat = 8 := rfl
  rw [bitsOf, BitVec.toNat_mul, h8]; omega

theorem latchInv_reset : LatchInv CoreState.reset := ⟨by decide, by decide, by decide⟩

/-- The rule of every command keeps the latch and the counter in range. -/
theorem latchInv_effectOf {c : CoreState} (h : LatchInv c) (i : Instr) : LatchInv (effectOf i c) := by
  obtain ⟨hzero, hle, hm⟩ := h
  cases i with
  | process n =>
    exact ⟨by simpa [effectOf] using hzero, by simpa [effectOf] using hle,
      by simpa [effectOf] using mlen_add_bytes hm (k := 512) (by decide)⟩
  | final n =>
    exact ⟨by simpa [effectOf] using hzero, by simpa [effectOf] using hle,
      by simpa [effectOf] using mlen_add_bytes hm (bitsOf_bytes n)⟩
  | sreset n => exact latchInv_reset
  | clrerr n => exact ⟨by simp [effectOf], by simp [effectOf], by simpa [effectOf] using hm⟩
  | init n | keyload n | keydig n | hmacInner n | hmacOuter n =>
    exact ⟨by simpa [effectOf] using hzero, by simpa [effectOf] using hle, by simp [effectOf, hm]⟩

/-! ### Idle and busy cores -/

theorem coreInv_of_idle {c : CoreState} (hl : LatchInv c) (hq : c.q = []) (ht : c.t = 0) (hf : c.fin = false) :
    CoreInv c where
  round_lt := by simp [ht]
  queue_le := by simp [hq]
  idle_clear _ := ⟨ht, hf⟩
  busy_clear hb := by simp [hq] at hb
  two_fin h2 := by simp [hq] at h2
  errcode_zero_iff := hl.errcode_zero_iff
  errcode_le := hl.errcode_le
  mlen_bytes := hl.mlen_bytes

theorem coreInv_of_busy {c : CoreState} (hl : LatchInv c) (ht : c.t.toNat < 80) (hq : c.q ≠ [])
    (hlen : c.q.length ≤ 2) (htwo : c.q.length = 2 → c.fin = true) (hv : c.dvalid = false) (hd : c.done = false) :
    CoreInv c where
  round_lt := ht
  queue_le := hlen
  idle_clear hb := by simp [hq] at hb
  busy_clear _ := ⟨hv, hd⟩
  two_fin := htwo
  errcode_zero_iff := hl.errcode_zero_iff
  errcode_le := hl.errcode_le
  mlen_bytes := hl.mlen_bytes

/-- The core invariant holds at reset (R49). -/
theorem coreInv_coreReset : CoreInv CoreState.reset :=
  coreInv_of_idle latchInv_reset rfl rfl rfl

/-! ### Commands (R182, R183) -/

theorem coreInv_reject {c : CoreState} (h : CoreInv c) (e : ErrCode) : CoreInv (reject e c) where
  round_lt := by simpa using h.round_lt
  queue_le := by simpa using h.queue_le
  idle_clear := by simpa using h.idle_clear
  busy_clear := by simpa using h.busy_clear
  two_fin := by simpa using h.two_fin
  errcode_zero_iff := by
    have hz := h.errcode_zero_iff
    rw [reject_errcode, reject_err]
    cases he : c.err with
    | true => simpa [he] using hz
    | false => cases e <;> simp [errBits]
  errcode_le := by
    rw [reject_errcode]
    split
    · exact h.errcode_le
    · cases e <;> decide
  mlen_bytes := by simpa using h.mlen_bytes

/-- The tail of FINAL, with its padding, fills one block or two (R103, R115). -/
theorem length_finalBlocks (n : BitVec 7) (c : CoreState) (lb : BitVec 64) :
    1 ≤ (blocksOf (padtail (blkPrefix n c) lb)).length ∧ (blocksOf (padtail (blkPrefix n c) lb)).length ≤ 2 := by
  have hlen : (blkPrefix n c).length ≤ 64 := by simp [blkPrefix]
  rw [length_blocksOf, length_padtail]
  omega

theorem length_outerTail (h : Chain) : (outerTail h).length = 1 := by simp [outerTail]

/-- An accepted command keeps the core invariant: one that ends at once leaves the core idle, and one that
starts a job has cleared DVALID and DONE (R31, R32). -/
theorem coreInv_accept {c : CoreState} (h : CoreInv c) {i : Instr} (hc : check i c = none) :
    CoreInv (effectOf i { c with done := false }) := by
  have hl : LatchInv (effectOf i { c with done := false }) :=
    latchInv_effectOf (c := { c with done := false }) ⟨h.errcode_zero_iff, h.errcode_le, h.mlen_bytes⟩ i
  have hidle (hs : isSreset i = false) : c.q = [] ∧ c.t = 0 ∧ c.fin = false := by
    have hq := queue_eq_nil_of_accepted hc hs
    exact ⟨hq, h.idle_clear ((busy_eq_false_iff c).mpr hq)⟩
  cases i with
  | sreset n => exact coreInv_coreReset
  | init n | keyload n | keydig n | clrerr n =>
    obtain ⟨hq, ht, hf⟩ := hidle rfl
    exact coreInv_of_idle hl (by simpa [effectOf]) (by simpa [effectOf]) (by simpa [effectOf])
  | process n | hmacInner n =>
    apply coreInv_of_busy hl <;> simp [effectOf]
  | hmacOuter n =>
    apply coreInv_of_busy hl <;> simp [effectOf, length_outerTail]
  | final n =>
    obtain ⟨hpos, hle⟩ := length_finalBlocks n { c with done := false } (c.mlen + bitsOf n)
    obtain ⟨b, rest, hbs⟩ := List.exists_cons_of_length_pos hpos
    have heff : effectOf (.final n) { c with done := false } =
      start (b :: rest) true { c with done := false, mlen := c.mlen + bitsOf n, dvalid := false } := by
      rw [effectOf, finalEffect, hbs]
    rw [heff] at hl ⊢
    rw [hbs] at hle
    exact coreInv_of_busy hl (by simp) (by simp) (by simpa using hle) (by simp) (by simp) (by simp)

/-! ### Rounds (R122, R123) -/

theorem latchInv_coreStep {c : CoreState} (h : LatchInv c) : LatchInv (coreStep c) :=
  ⟨by simpa using h.errcode_zero_iff, by simpa using h.errcode_le, by simpa using h.mlen_bytes⟩

/-- A round of a running job keeps the core invariant: inside the block t goes up, and the last round loads the
one block that is left or ends the job. -/
theorem coreInv_coreStep {c : CoreState} (h : CoreInv c) (hb : busy c = true) : CoreInv (coreStep c) := by
  have hl := latchInv_coreStep h.latchInv
  have hq := (busy_eq_true_iff c).mp hb
  have hlen : c.q.length ≤ 2 := h.queue_le
  obtain ⟨hv, hd⟩ := h.busy_clear hb
  by_cases ht : c.t.toNat < 79
  · rw [coreStep_of_lt ht] at hl ⊢
    refine coreInv_of_busy hl ?_ hq hlen h.two_fin hv hd
    have h1 : (1 : BitVec 7).toNat = 1 := rfl
    change (c.t + 1).toNat < 80
    rw [BitVec.toNat_add, h1]; omega
  · rw [coreStep_of_ge (Nat.le_of_not_lt ht)] at hl ⊢
    cases htail : (roundStep c).q.tail with
    | nil =>
      rw [endBlock_last htail] at hl ⊢
      exact coreInv_of_idle hl rfl rfl rfl
    | cons b rest =>
      have hone : (b :: rest).length ≤ 1 := by
        rw [← htail, roundStep_q, List.length_tail]; exact Nat.sub_le_of_le_add hlen
      rw [endBlock_next htail] at hl ⊢
      have hnot_two (h2 : (b :: rest).length = 2) : (roundStep c).fin = true := by omega
      exact coreInv_of_busy hl (by simp) (by simp) (Nat.le_succ_of_le hone) hnot_two hv hd

/-! ### Obligations -/

/-- Settles O48: the reset core is idle. -/
theorem coreInvAtReset : Obligations.CoreInvAtReset := coreInv_coreReset

/-- Settles O49, one lemma for each of the core's operations. -/
theorem stepKeepsCoreInv : Obligations.StepKeepsCoreInv := by
  intro s t h hs
  cases coreChange_of_step hs with
  | keep ht => rwa [ht]
  | round _ hb ht => rw [ht]; exact coreInv_coreStep h hb
  | reset _ ht => rw [ht]; exact coreInv_coreReset
  | accept i ha ht => rw [ht]; exact coreInv_accept h ha.2
  | reject e ht => rw [ht]; exact coreInv_reject h e
  | writeInten v ht | writeBlk j v _ ht =>
    rw [ht]
    exact ⟨h.round_lt, h.queue_le, h.idle_clear, h.busy_clear, h.two_fin, h.errcode_zero_iff, h.errcode_le,
      h.mlen_bytes⟩

end Sys2Proof
end

section
/-! PROOFS. The schedule window (R23, R105, R122) and the job invariant: while a job runs, A..E and WS are those of
its block after t rounds. -/

namespace Sys2Proof

open Machine

/-! ### The message schedule (R105) -/

/-- The first sixteen schedule words are the words of the block. -/
theorem schedWord_of_lt (b : Block) {j : Nat} (hj : j < 16) : schedWord b j = (blockWords b)[j] := by
  rw [schedWord_eq_getD (k := 0) (by omega) (by omega)]
  simp [schedRev, List.getD_eq_getElem?_getD, hj]

/-- The recurrence of the later words. -/
theorem schedWord_of_ge (b : Block) {j : Nat} (h16 : 16 ≤ j) (h80 : j < 80) :
    schedWord b j =
      rotl 1 (schedWord b (j - 3) ^^^ schedWord b (j - 8) ^^^ schedWord b (j - 14) ^^^ schedWord b (j - 16)) := by
  obtain ⟨k, rfl⟩ := Nat.exists_eq_add_of_le h16
  have hprev {i : Nat} (hi : i < 16) : (schedRev b k).getD i 0 = schedWord b (16 + k - (i + 1)) := by
    rw [getD_schedRev (by omega) (by omega)]; congr 1; omega
  calc schedWord b (16 + k)
      = (schedRev b (k + 1)).getD 0 0 := by rw [getD_schedRev (by omega) (by omega)]; congr 1; omega
    _ = nextSched (schedRev b k) := rfl
    _ = _ := by simp only [nextSched, hprev (show 2 < 16 by decide), hprev (show 7 < 16 by decide),
                  hprev (show 13 < 16 by decide), hprev (show 15 < 16 by decide), Nat.reduceAdd]

/-! ### The window (R23, R122) -/

section
variable {b : Block} {t : Nat} {ws : Words16}

/-- A word of the window, by any index with the residue of its schedule index. -/
theorem WindowAt.getElem (h : WindowAt b t ws) {i j : Nat} (hlt : i < max t 16) (hge : max t 16 ≤ i + 16)
    (hj : j % 16 = i % 16) : ws[j % 16]'(Nat.mod_lt _ (by decide)) = schedWord b i := by
  simp only [hj]; exact h i hlt hge

/-- Loading a block fills the window with its first sixteen words (R120). -/
theorem windowAt_load (b : Block) : WindowAt b 0 (blockWords b) := by
  intro i hi _
  have hi : i < 16 := hi
  rw [schedWord_of_lt b hi]
  simp only [Nat.mod_eq_of_lt hi]

/-- Round t finds W_t in its place of the window. -/
theorem windowStep_getElem (h80 : t < 80) (h : WindowAt b t ws) :
    (windowStep t ws)[t % 16]'(Nat.mod_lt _ (by decide)) = schedWord b t := by
  by_cases h16 : 16 ≤ t
  · have h3 := h.getElem (i := t - 3) (j := t + 13) (by omega) (by omega) (by omega)
    have h8 := h.getElem (i := t - 8) (j := t + 8) (by omega) (by omega) (by omega)
    have h14 := h.getElem (i := t - 14) (j := t + 2) (by omega) (by omega) (by omega)
    have h0 := h.getElem (i := t - 16) (j := t) (by omega) (by omega) (by omega)
    simp only [windowStep, h16, if_true, Vector.getElem_set_self]
    rw [h3, h8, h14, h0, schedWord_of_ge b h16 h80]
  · rw [windowStep, if_neg h16]
    exact h t (by omega) (by omega)

/-- Round t writes no other word of the window. -/
theorem windowStep_getElem_of_ne {j : Nat} (hj : j < 16) (hne : j ≠ t % 16) : (windowStep t ws)[j] = ws[j] := by
  unfold windowStep
  split
  · exact Vector.getElem_set_ne _ _ hne.symm
  · rfl

/-- After round t the window holds the schedule up to round t + 1. -/
theorem windowAt_windowStep (h80 : t < 80) (h : WindowAt b t ws) : WindowAt b (t + 1) (windowStep t ws) := by
  intro i hlt hge
  by_cases hi : i = t
  · subst hi; exact windowStep_getElem h80 h
  · by_cases hmod : i % 16 = t % 16
    · omega
    · rw [windowStep_getElem_of_ne _ hmod]
      exact h i (by omega) (by omega)

end

/-! ### The operations of the core (R120 to R123) -/

theorem jobInv_of_idle {c : CoreState} (hq : c.q = []) : JobInv c := by
  intro b rest h
  simp [hq] at h

/-- The job invariant looks at the registers of the job and at H alone. -/
theorem JobInv.congr {c d : CoreState} (h : JobInv c) (hh : d.h = c.h) (hw : d.w = c.w) (hws : d.ws = c.ws)
    (ht : d.t = c.t) (hq : d.q = c.q) : JobInv d := by
  unfold JobInv
  rwa [hh, hw, hws, ht, hq]

/-- A block just loaded has run no round. -/
theorem jobInv_load {b : Block} {c : CoreState} (hq : c.q.head? = some b) : JobInv (load b c) := by
  intro b' rest h
  rw [load_q] at h
  obtain rfl : b' = b := by simpa [h] using hq
  exact ⟨by simp, windowAt_load b'⟩

theorem jobInv_start (bs : List Block) (fin : Bool) (c : CoreState) : JobInv (start bs fin c) := by
  cases bs with
  | nil => exact jobInv_of_idle (start_q ..)
  | cons b rest => exact jobInv_load rfl

theorem jobInv_endBlock (c : CoreState) : JobInv (endBlock c) := by
  cases htail : c.q.tail with
  | nil => exact jobInv_of_idle (by rw [endBlock_q, htail])
  | cons b rest => rw [endBlock_next htail]; exact jobInv_load rfl

/-- A round that is not the last of its block takes A..E and WS one round on. -/
theorem jobInv_coreStep {c : CoreState} (h : JobInv c) : JobInv (coreStep c) := by
  by_cases ht : c.t.toNat < 79
  · have hnext : (c.t + 1).toNat = c.t.toNat + 1 := by
      have h1 : (1 : BitVec 7).toNat = 1 := rfl
      rw [BitVec.toNat_add, h1]; omega
    rw [coreStep_of_lt ht]
    intro b rest hq
    obtain ⟨hw, hws⟩ := h b rest hq
    have hword := windowStep_getElem (by omega) hws
    show (roundStep c).w = workAfter c.h b (c.t + 1).toNat ∧ WindowAt b (c.t + 1).toNat (windowStep c.t.toNat c.ws)
    rw [hnext]
    exact ⟨by rw [roundStep_w, hword, hw, workAfter_succ], windowAt_windowStep (by omega) hws⟩
  · rw [coreStep_of_ge (Nat.le_of_not_lt ht)]
    exact jobInv_endBlock _

/-- An accepted command finds the core idle, or resets it: it leaves no job, or one that has just started. -/
theorem jobInv_accept {c : CoreState} {i : Instr} (hc : check i c = none) :
    JobInv (effectOf i { c with done := false }) := by
  cases i with
  | sreset n => exact jobInv_of_idle rfl
  | init n | keyload n | keydig n | clrerr n =>
    have hq := queue_eq_nil_of_accepted hc rfl
    exact jobInv_of_idle (by simpa [effectOf])
  | process n | final n | hmacInner n | hmacOuter n => exact jobInv_start _ _ _

/-! ### Obligations -/

/-- Settles O50: no job runs at reset. -/
theorem jobInvAtReset : Obligations.JobInvAtReset := jobInv_of_idle rfl

/-- Settles O51: a round goes one round on in the schedule, and everything else starts a block or leaves the job
alone. -/
theorem stepKeepsJobInv : Obligations.StepKeepsJobInv := by
  intro s t h hs
  cases coreChange_of_step hs with
  | keep ht => rwa [ht]
  | round _ _ ht => rw [ht]; exact jobInv_coreStep h
  | reset _ ht => rw [ht]; exact jobInv_of_idle rfl
  | accept i ha ht => rw [ht]; exact jobInv_accept ha.2
  | reject e ht => rw [ht]; exact h.congr (by simp) (by simp) (by simp) (by simp) (by simp)
  | writeInten v ht | writeBlk j v _ ht => rw [ht]; exact h.congr rfl rfl rfl rfl rfl

end Sys2Proof
end

section
/-! PROOFS. The state and the register map (10_state.md): values at reset, STATUS, bus addresses, frames, and who
changes BLK, DVALID and H. -/

namespace Sys2Proof.Machine

/-! ### Reset (R49) -/

/-- Settles O1, each value by evaluation. -/
theorem resetStateValues : Obligations.ResetStateValues := by
  have hk : State.reset.core.k.toList = zeros 64 := by simp [State.reset, CoreState.reset, zeros]
  exact ⟨rfl, rfl, by decide, rfl, rfl, rfl, by decide, hk, rfl, rfl, rfl, rfl, rfl, rfl, by decide, by decide,
    by decide, by decide, by decide, by decide, by decide⟩

/-! ### STATUS (R43) -/

/-- Above bit 3 STATUS is ERRCODE from bit 4 on, t from bit 8 on, and the length of Q from bit 16 on. -/
theorem getLsbD_status_of_ge (c : CoreState) {i : Nat} (h4 : 4 ≤ i) (hi : i < 32) :
    (status c).getLsbD i = (c.errcode.getLsbD (i - 4) || (decide (8 ≤ i) && c.t.getLsbD (i - 8)) ||
      (decide (16 ≤ i) && c.q.length.testBit (i - 16))) := by
  have hflag (b : Bool) {k : Nat} (hk : k ≤ 3) : (flagWord b <<< k).getLsbD i = false := by
    have hpos : i - k ≠ 0 := by omega
    simp [flagWord, BitVec.getLsbD_ofBool, hpos]
  have hbusy := hflag (busy c) (Nat.zero_le 3)
  rw [BitVec.shiftLeft_zero] at hbusy
  simp only [status, BitVec.getLsbD_or, hbusy, hflag _ (show 1 ≤ 3 by decide), hflag _ (show 2 ≤ 3 by decide),
    hflag _ (show 3 ≤ 3 by decide), BitVec.getLsbD_shiftLeft, BitVec.getLsbD_setWidth, BitVec.getLsbD_ofNat, hi,
    Nat.not_lt.mpr h4, show i - 4 < 32 by omega, show i - 8 < 32 by omega, show i - 16 < 32 by omega]
  simp [← decide_not]

theorem status_errcode (c : CoreState) : (status c).extractLsb' 4 4 = c.errcode := by
  apply BitVec.eq_of_getLsbD_eq
  intro i hi
  have ht : ¬ 8 ≤ 4 + i := by omega
  have hq : ¬ 16 ≤ 4 + i := by omega
  rw [BitVec.getLsbD_extractLsb', getLsbD_status_of_ge c (by omega) (by omega)]
  simp [hi, ht, hq]

theorem status_t (c : CoreState) : (status c).extractLsb' 8 7 = c.t := by
  apply BitVec.eq_of_getLsbD_eq
  intro i hi
  have he : c.errcode.getLsbD (8 + i - 4) = false := BitVec.getLsbD_of_ge _ _ (by omega)
  have hq : ¬ 16 ≤ 8 + i := by omega
  rw [BitVec.getLsbD_extractLsb', getLsbD_status_of_ge c (by omega) (by omega)]
  simp [hi, he, hq]

/-- Bit 15 is the bit above t. -/
theorem status_bit_fifteen (c : CoreState) : (status c)[15] = false := by
  rw [← BitVec.getLsbD_eq_getElem, getLsbD_status_of_ge c (by decide) (by decide)]
  simp

/-- From bit 16 on STATUS is the length of Q. -/
theorem getLsbD_status_queue (c : CoreState) {i : Nat} (hi : i < 16) :
    (status c).getLsbD (16 + i) = c.q.length.testBit i := by
  have he : c.errcode.getLsbD (16 + i - 4) = false := BitVec.getLsbD_of_ge _ _ (by omega)
  have ht : c.t.getLsbD (16 + i - 8) = false := BitVec.getLsbD_of_ge _ _ (by omega)
  rw [getLsbD_status_of_ge c (by omega) (by omega)]
  simp [he, ht]

section
variable {c : CoreState} (hq : c.q.length ≤ 2)
include hq

theorem status_queue : ((status c).extractLsb' 16 2).toNat = c.q.length := by
  have hlen : (status c).extractLsb' 16 2 = BitVec.ofNat 2 c.q.length := by
    apply BitVec.eq_of_getLsbD_eq
    intro i hi
    rw [BitVec.getLsbD_extractLsb', getLsbD_status_queue c (by omega), BitVec.getLsbD_ofNat]
  rw [hlen, BitVec.toNat_ofNat]
  omega

theorem status_high : (status c).extractLsb' 18 14 = 0 := by
  apply BitVec.eq_of_getLsbD_eq
  intro i hi
  have hbit : c.q.length.testBit (2 + i) = false :=
    Nat.testBit_lt_two_pow (Nat.lt_of_lt_of_le (show c.q.length < 2 ^ 2 by omega)
      (Nat.pow_le_pow_right (by decide) (by omega)))
  rw [BitVec.getLsbD_extractLsb', show 18 + i = 16 + (2 + i) by omega, getLsbD_status_queue c (by omega), hbit]
  simp

end

/-- Settles O4, field by field; a queue of at most two blocks (R27) is what leaves bits 31:18 zero. -/
theorem statusFields : Obligations.StatusFields := by
  refine ⟨fun c h => ?_, fun s v => rfl⟩
  have hq : c.q.length ≤ 2 := h.queue_le
  exact ⟨status_bit_zero c, by simp [status, flagWord], by simp [status, flagWord], by simp [status, flagWord],
    status_errcode c, status_t c, status_queue hq, status_bit_fifteen c, status_high hq, hq,
    Nat.le_of_lt_succ h.round_lt, h.errcode_le⟩

/-! ### Bus addresses (R40) -/

/-- Settles O8: the base is a multiple of the window's size and is taken off again by `busOffset`, whatever it is. -/
theorem busAddressIsBasePlusOffset : Obligations.BusAddressIsBasePlusOffset := by
  refine ⟨by rw [sha1Base_eq, Nat.mul_mod_right], fun size off => ?_, fun size addr h => ?_⟩
  · have hbus : busOffset (.absolute (Config.sha1Base + off)) = busOffset (.offset off) := by simp [busOffset]
    unfold windowOffset
    rw [hbus]
  · unfold windowOffset
    split
    · next off ho =>
      rw [busOffset] at ho
      split_ifs at ho with hbase
      cases ho
      rw [if_neg (by rw [windowBytes_eq]; omega)]
    · rfl

/-! ### Frames (R36) -/

/-- Before the last round of a block the rounds touch A..E, WS and t alone (R122). -/
theorem coreStep_frame_of_lt {c : CoreState} (h : c.t.toNat < 79) :
    (coreStep c).h = c.h ∧ (coreStep c).q = c.q ∧ (coreStep c).fin = c.fin ∧ (coreStep c).dvalid = c.dvalid ∧
      (coreStep c).done = c.done := by
  rw [coreStep_of_lt h]
  exact ⟨rfl, rfl, rfl, rfl, rfl⟩

/-- Settles O42: the first six fields at every round, the others before the last one. -/
theorem coreStepFrame : Obligations.CoreStepFrame := fun c =>
  ⟨coreStep_blk c, coreStep_k c, coreStep_mlen c, coreStep_err c, coreStep_errcode c, coreStep_inten c,
    coreStep_frame_of_lt⟩

/-- Settles O41: a rejection touches the latch alone, and an accepted command what its rule writes. -/
theorem commandFrame : Obligations.CommandFrame := by
  intro i s hs
  refine ⟨_, exec_eq i s, rfl, rfl, rfl, ?_⟩
  cases hc : check i s.core with
  | some e => simp [coreAfter_rejected hc]
  | none =>
    rw [coreAfter_accepted hc]
    exact ⟨effectOf_blk _ hs, effectOf_inten _ hs, fun hk hd => effectOf_k _ hs hk hd,
      fun hi hin hout => effectOf_h _ hs hi hin hout,
      fun hp hf hin hout =>
        have ⟨hw, hws, ht, hq, hfin⟩ := effectOf_job { s.core with done := false } hs hp hf hin hout
        ⟨hw, hws, ht, hq, hfin, fun hi => effectOf_message _ hs hp hf hin hout hi⟩,
      fun _ hce => effectOf_latch _ hs hce⟩

/-! ### Who changes BLK, DVALID and H (R25, R31) -/

/-- SRESET is the one command whose rule writes BLK. -/
theorem exists_sreset_of_effectOf_blk_ne {i : Instr} {c : CoreState} (h : (effectOf i c).blk ≠ c.blk) :
    ∃ n, i = .sreset n := by
  by_contra hs
  exact h (effectOf_blk c (not_exists.mp hs))

/-- Settles O44: of the changes a step can make, a reset, an accepted SRESET and a write of BLK reach BLK. -/
theorem blockBufferChangesOnlyByHost : Obligations.BlockBufferChangesOnlyByHost := by
  intro s t j hs hne
  cases coreChange_of_step hs with
  | keep ht | writeInten v ht => simp [ht] at hne
  | round _ _ ht | reject e ht => simp [ht] at hne
  | reset hn _ => exact .inl hn
  | accept i ha ht =>
    obtain ⟨n, rfl⟩ := exists_sreset_of_effectOf_blk_ne (i := i) (c := { s.core with done := false })
      fun h => hne (by rw [ht, h])
    exact .inr (.inl ⟨n, ha⟩)
  | writeBlk k v hw ht =>
    obtain ⟨hn, size, addr, ops, hp, ho⟩ := hw
    by_cases hk : k = j
    · subst hk
      exact .inr (.inr ⟨hn, size, addr, v, ops, hp, ho, by simp [ht]⟩)
    · exact absurd (by simp [ht, Fin.val_ne_of_ne hk]) hne

/-- A round sets DVALID as the last of the last block of a final job, and never clears it (R31, R123). -/
theorem coreStep_dvalid (c : CoreState) :
    (coreStep c).dvalid = (c.dvalid || (decide (79 ≤ c.t.toNat) && c.q.tail.isEmpty && c.fin)) := by
  by_cases ht : c.t.toNat < 79
  · rw [coreStep_of_lt ht]
    simp [ht]
  · have hlast : 79 ≤ c.t.toNat := Nat.le_of_not_lt ht
    rw [coreStep_of_ge hlast]
    cases htail : c.q.tail with
    | nil => rw [endBlock_last (c := roundStep c) htail]; simp [hlast]
    | cons b rest => rw [endBlock_next (c := roundStep c) htail]; simp

theorem coreStep_of_last_round {c : CoreState} (ht : 79 ≤ c.t.toNat) (htail : c.q.tail = []) :
    (coreStep c).done = true ∧ busy (coreStep c) = false ∧ (coreStep c).h = addWork c.h (roundStep c).w := by
  rw [coreStep_of_ge ht, endBlock_last (c := roundStep c) htail]
  exact ⟨rfl, rfl, rfl⟩

theorem clearsDigest_cases {i : Instr} (h : clearsDigest i = true) :
    ∃ n, i = .init n ∨ i = .process n ∨ i = .final n ∨ i = .hmacInner n ∨ i = .hmacOuter n ∨ i = .sreset n := by
  cases i <;> simp [clearsDigest] at h ⊢

/-- Settles O46: only a round can raise DVALID, and only an accepted command or a reset can clear it. -/
theorem digestValidRisesAndFalls : Obligations.DigestValidRisesAndFalls := by
  intro s t hs
  refine ⟨fun hv hv' => ?_, fun hv hv' => ?_⟩
  · cases coreChange_of_step hs with
    | round hn hb ht =>
      rw [ht, coreStep_dvalid, hv] at hv'
      obtain ⟨⟨hlast, htail⟩, hfin⟩ : (79 ≤ s.core.t.toNat ∧ s.core.q.tail = []) ∧ s.core.fin = true := by
        simpa using hv'
      have hpos := List.length_pos_of_ne_nil ((busy_eq_true_iff _).mp hb)
      have hlen : s.core.q.length - 1 = 0 := by rw [← List.length_tail, htail, List.length_nil]
      rw [ht]
      exact ⟨hn, hfin, by omega, hlast, coreStep_of_last_round hlast htail⟩
    | reset _ ht => simp [ht, CoreState.reset] at hv'
    | accept i _ ht => simp [ht, effectOf_dvalid, hv] at hv'
    | keep ht | reject e ht | writeInten v ht | writeBlk j v _ ht => simp [ht, hv] at hv'
  · cases coreChange_of_step hs with
    | reset hn _ => exact .inl hn
    | accept i ha ht =>
      have hi : clearsDigest i = true := by simpa [ht, effectOf_dvalid, hv] using hv'
      obtain ⟨n, hn⟩ := clearsDigest_cases hi
      exact .inr ⟨i, n, ha, hn⟩
    | round _ _ ht => simp [ht, coreStep_dvalid, hv] at hv'
    | keep ht | reject e ht | writeInten v ht | writeBlk j v _ ht => simp [ht, hv] at hv'

/-- Settles O47: a core with a finished digest is idle, so only a command could change H, and those that do clear
DVALID. -/
theorem digestStaysWhileValid : Obligations.DigestStaysWhileValid := by
  intro s t h hs hv hv'
  cases coreChange_of_step hs with
  | round _ hb _ => simp [(h.busy_clear hb).1] at hv
  | reset _ ht => simp [ht, CoreState.reset] at hv'
  | accept i _ ht =>
    have hi : clearsDigest i = false := by simpa [ht, effectOf_dvalid, hv] using hv'
    rw [ht, effectOf_h_of_not_clearsDigest _ hi]
  | keep ht | reject e ht | writeInten v ht | writeBlk j v _ ht => simp [ht]

/-! ### Issue by a host write to CMD (R42, R180) -/

theorem decodeOp_opcode (i : Instr) : decodeOp (opcode i) i.count = .cmd i := by cases i <;> rfl

/-- The decoder undoes the encoder, whatever the operand (R81, R90). -/
theorem decode_encode (i : Instr) : decode (encode i) = .cmd i := by
  rw [decode, encode, rsvField_cmdword, if_pos rfl, opField_cmdword, countField_cmdword, decodeOp_opcode]

/-- A host turn whose access writes CMD issues the word. -/
theorem step_of_cmdWrite {s : State} {v : Word} {ops : List HostOp} (hn : nextTurn s = .host)
    (hp : s.prog = cmdWrite v :: ops) : step s = issue v { s with prog := ops, turns := s.turns.tail } := by
  rw [step_host hn, hostTurn, popTurn_prog, hp]
  rfl

theorem issue_of_decode {v : Word} {i : Instr} (h : decode v = .cmd i) (s : State) : issue v s = exec i s := by
  rw [issue, h]

theorem ofNat_toNat_mod (v : Word) : BitVec.ofNat 32 (v.toNat % 2 ^ 32) = v := by
  rw [Nat.mod_eq_of_lt v.isLt, BitVec.ofNat_toNat, BitVec.setWidth_eq]

/-- Settles O52; the placed word is the encoded command itself, which decodes to it. -/
theorem stepRunsDecodedCommand : Obligations.StepRunsDecodedCommand := by
  refine ⟨fun s v i ops hn hp hd => ?_, fun s i => ?_⟩
  · rw [step_of_cmdWrite hn hp, issue_of_decode hd]
  · rw [State.withFetchWord, ofNat_toNat_mod, step_of_cmdWrite rfl rfl, issue_of_decode (decode_encode i)]
    rfl

end Sys2Proof.Machine
end

section
/-! PROOFS. The register window (20_memory.md): the host's accesses one turn each, which of them are refused, and
the byte order of BLK and DIGEST. -/

namespace Sys2Proof

/-! ### Words as bytes (R10, R52, R57) -/

theorem getElem?_bytes32 (w : Word) {j : Nat} (hj : j < 4) : (bytes32 w)[j]? = some (wordByte w j) := by
  obtain rfl | rfl | rfl | rfl : j = 0 ∨ j = 1 ∨ j = 2 ∨ j = 3 := by omega
  all_goals rfl

/-- Byte 4i+j of the big-endian bytes of some words is byte j of word i. -/
theorem getElem?_flatMap_bytes32 (l : List Word) (i : Nat) {j : Nat} (hj : j < 4) :
    (l.flatMap bytes32)[4 * i + j]? = l[i]?.map (wordByte · j) := by
  induction l generalizing i with
  | nil => simp
  | cons w l ih =>
    have hlen : (bytes32 w).length = 4 := rfl
    rw [List.flatMap_cons]
    cases i with
    | zero => rw [List.getElem?_append_left (by omega), Nat.mul_zero, Nat.zero_add, getElem?_bytes32 w hj]; rfl
    | succ i =>
      rw [List.getElem?_append_right (by omega), hlen, show 4 * (i + 1) + j - 4 = 4 * i + j by omega, ih,
        List.getElem?_cons_succ]

theorem bytesOfWords_toList (ws : Words16) : (bytesOfWords ws).toList = ws.toList.flatMap bytes32 := by
  apply List.ext_getElem?
  intro n
  have hn : 4 * (n / 4) + n % 4 = n := Nat.div_add_mod n 4
  rw [← hn, getElem?_flatMap_bytes32 _ _ (Nat.mod_lt n (by decide)), hn]
  by_cases h : n < 64
  · simp [h, show n / 4 < 16 by omega]
  · simp [h, show ¬ n / 4 < 16 by omega]

theorem chain_toList (h : Chain) : h.toList = List.ofFn fun i : Fin 5 => h[i] := by
  rw [← Vector.toList_ofFn]
  congr 1
  ext i hi : 1
  simp

theorem digestBytes_eq_flatMap (h : Chain) : digestBytes h = h.toList.flatMap bytes32 := by
  rw [chain_toList, digestBytes]
  simp [List.ofFn_succ]

/-- Settles O5: byte 4i+j of the buffer is byte j of word i, and the words of the buffer's block are BLK again. -/
theorem blockBufferBytes : Obligations.BlockBufferBytes := by
  intro ws
  refine ⟨bytesOfWords_toList ws, fun i j => ?_, fun j => ?_⟩
  · have hdiv : (4 * i.val + j.val) / 4 = i := by omega
    have hmod : (4 * i.val + j.val) % 4 = j := by omega
    rw [getElem_bytesOfWords]
    simp only [hdiv, hmod, wordByte, Fin.getElem_fin]
  · rw [schedWord_of_lt _ j.isLt]
    simp only [blockWords_bytesOfWords, Fin.getElem_fin]

end Sys2Proof

namespace Sys2Proof.Machine

/-! ### One host turn for each operation (R53 to R55, R61, R89) -/

section
variable {s : State} {size : AccessSize} {addr : BusAddr} {v : Word} {ops : List HostOp} (hn : nextTurn s = .host)
include hn

theorem step_rd {off : Nat} (hp : s.prog = .rd size addr :: ops) (ho : windowOffset size addr = some off) :
    step s = .next (hostRead off { s with prog := ops, turns := s.turns.tail }) := by
  rw [step_host hn, hostTurn, popTurn_prog, hp]
  simp only [ho]
  rfl

theorem step_wr {off : Nat} (hp : s.prog = .wr size addr v :: ops) (ho : windowOffset size addr = some off) :
    step s = writeReg (regAt off) v { s with prog := ops, turns := s.turns.tail } := by
  rw [step_host hn, hostTurn, popTurn_prog, hp]
  simp only [ho]
  rfl

theorem step_rd_refused (hp : s.prog = .rd size addr :: ops) (ho : windowOffset size addr = none) :
    step s = .refused (.outsideInterface size addr) := by
  rw [step_host hn, hostTurn, popTurn_prog, hp]
  simp only [ho]

theorem step_wr_refused (hp : s.prog = .wr size addr v :: ops) (ho : windowOffset size addr = none) :
    step s = .refused (.outsideInterface size addr) := by
  rw [step_host hn, hostTurn, popTurn_prog, hp]
  simp only [ho]

theorem step_poll (hp : s.prog = .poll :: ops) :
    step s = .next (hostRead 0x08
      { s with prog := if busy s.core then s.prog else ops, turns := s.turns.tail }) := by
  have hbit : (regRead 0x08 (popTurn s).core)[0] = busy s.core := status_bit_zero s.core
  rw [step_host hn, hostTurn, popTurn_prog, hp]
  cases hb : busy s.core with
  | true => simp only [hbit, hb, ← hp]; rfl
  | false => simp only [hbit, hb]; rfl

theorem step_waitIrq (hp : s.prog = .waitIrq :: ops) :
    step s = .next { s with prog := if irq s.core then ops else s.prog, turns := s.turns.tail } := by
  rw [step_host hn, hostTurn, popTurn_prog, hp]
  cases hb : irq s.core with
  | true => simp only [popTurn_core, hb]; rfl
  | false => simp only [popTurn_core, hb, ← hp]; rfl

end

/-! ### A row of reads -/

@[simp] theorem regRead_digest (i : Fin 5) (c : CoreState) : regRead (0x80 + 4 * i.val) c = c.h[i] := by
  rw [regRead, regAt_digest, readReg]

@[simp] theorem regRead_blk (i : Fin 16) (c : CoreState) : regRead (0x40 + 4 * i.val) c = c.blk[i] := by
  rw [regRead, regAt_blk, readReg]

/-- What the host reads of the registers `rs` of the core `c`. -/
def readsOf (rs : List Reg) (c : CoreState) : List (Nat × Word) :=
  rs.map fun r => (regOffset r, regRead (regOffset r) c)

/-- Host turns that read registers of the window one after the other record what each of them holds. -/
theorem run_reads (rs : List Reg) (hrs : ∀ r ∈ rs, windowOffset .word (.offset (regOffset r)) = some (regOffset r))
    {s : State} {ops : List HostOp} {ts : List Turn} (hp : s.prog = rs.map rdReg ++ ops)
    (ht : s.turns = List.replicate rs.length .host ++ ts) :
    RunsTo s rs.length { s with prog := ops, turns := ts, reads := s.reads ++ readsOf rs s.core } := by
  induction rs generalizing s with
  | nil =>
    obtain rfl : s.prog = ops := hp
    obtain rfl : s.turns = ts := ht
    simp [RunsTo, run_zero, readsOf]
  | cons r rs ih =>
    rw [List.map_cons, List.cons_append, rdReg] at hp
    rw [List.length_cons, List.replicate_succ, List.cons_append] at ht
    have hn : nextTurn s = .host := by rw [nextTurn, ht]
    have hstep := step_rd hn hp (hrs r List.mem_cons_self)
    have htail := ih (fun r' hr' => hrs r' (List.mem_cons_of_mem r hr'))
      (s := hostRead (regOffset r) { s with prog := rs.map rdReg ++ ops, turns := s.turns.tail }) rfl
      (by simp [ht])
    rw [RunsTo, List.length_cons, run_succ _ hstep]
    simpa [RunsTo, hostRead, readsOf] using htail

/-- RDDIG reads the five registers DIGEST0..DIGEST4 in order (R89). -/
theorem rddig_eq_map : rddig = (List.ofFn Reg.digest).map rdReg := by
  rw [List.map_ofFn]; rfl

theorem readsOf_digest_values (c : CoreState) :
    (readsOf (List.ofFn Reg.digest) c).map Prod.snd = c.h.toList := by
  rw [chain_toList, readsOf, List.map_map, List.map_ofFn]
  exact congrArg List.ofFn (funext (regRead_digest · c))

/-- Settles O6: the run of the five reads, whose values are the words of H in order. -/
theorem rddigReturnsDigestBytes : Obligations.RddigReturnsDigestBytes := by
  intro s ops ts hp ht
  have hvals := readsOf_digest_values s.core
  refine ⟨readsOf (List.ofFn Reg.digest) s.core, ?_, hvals, ?_⟩
  · have hrs : ∀ r ∈ List.ofFn Reg.digest, windowOffset .word (.offset (regOffset r)) = some (regOffset r) := by
      intro r hr
      obtain ⟨i, rfl⟩ := List.mem_ofFn.mp hr
      exact windowOffset_digest i
    rw [rddig_eq_map] at hp
    simpa using run_reads _ hrs hp (by simpa using ht)
  · rw [digestBytes_eq_flatMap, ← hvals, List.flatMap_map]

/-! ### The map of the window (R53, R54) -/

/-- Settles O2: the register at each offset, and one host turn that reads it. -/
theorem regReadMap : Obligations.RegReadMap := by
  refine ⟨fun c => ⟨rfl, rfl, rfl, rfl, rfl, (regRead_blk · c), (regRead_digest · c), fun off h4 h => ?_⟩,
    fun s off ops hn hp h4 hle => step_rd hn hp (windowOffset_word h4 (by omega))⟩
  obtain rfl | h := h
  · rfl
  · rw [regRead, regAt_reserved h4 (by omega), readReg]

theorem offset_of_regAt_inten {off : Nat} (h : regAt off = .inten) : off = 0x0C := by
  unfold regAt at h
  split_ifs at h with _ _ _ hinten
  exact hinten

/-- A write of any offset but those of CMD, INTEN and BLK has no effect (R54). -/
theorem writeReg_regAt_ignored {off : Nat} (h4 : off % 4 = 0) (hcmd : off ≠ 0x04) (hinten : off ≠ 0x0C)
    (hblk : off < 0x40 ∨ 0x80 ≤ off) (v : Word) (s : State) : writeReg (regAt off) v s = .next s := by
  cases hr : regAt off with
  | cmd => exact absurd (offset_of_regAt_cmd hr) hcmd
  | inten => exact absurd (offset_of_regAt_inten hr) hinten
  | blk i =>
    have := offset_of_regAt_blk h4 hr
    omega
  | id | status | mlenLo | mlenHi | digest i | reserved o => rfl

/-- Settles O3: one host turn that writes the register at the offset. -/
theorem regWriteMap : Obligations.RegWriteMap := by
  intro s off v ops hn hp h4 hle
  rw [step_wr hn hp (windowOffset_word h4 (by omega))]
  refine ⟨?_, ?_, ?_, fun h => writeReg_regAt_ignored h4 (by omega) (by omega) (by omega) v _⟩
  · rintro rfl; rfl
  · rintro rfl; rfl
  · rintro i rfl; rw [regAt_blk, writeReg]

/-! ### Refused accesses (R55), and the waits (R61) -/

/-- Settles O9: such an access has no window offset. -/
theorem accessOutsideInterfaceRefused : Obligations.AccessOutsideInterfaceRefused := by
  intro s size off v ops hn h
  have ho := windowOffset_offset_eq_none h
  exact ⟨fun hp => step_rd_refused hn hp ho, fun hp => step_wr_refused hn hp ho⟩

/-- Settles O54: bit 0 of the STATUS a turn of POLL reads is BUSY. -/
theorem pollWaitsForIdle : Obligations.PollWaitsForIdle :=
  fun _ _ hn hp _ => step_poll hn hp

/-- Settles O55: the turn of the wait, with irq high and with irq low. -/
theorem irqWaitEndsWithIrq : Obligations.IrqWaitEndsWithIrq :=
  fun _ _ hn hp => step_waitIrq hn hp

end Sys2Proof.Machine
end

section
/-! PROOFS. The encoding (30_encoding.md): the decoder and the encoder are inverse to each other, which words are
illegal, and the row of BLK writes that WRBLK stands for. -/

namespace Sys2Proof

/-! ### Decoding and encoding (R81, R82, R90) -/

/-- A word whose RSV is 0 is put together from its OP and its N (R81). -/
theorem cmdword_opField_countField {c : Word} (h : rsvField c = 0) : cmdword (opField c) (countField c) = c := by
  apply BitVec.eq_of_getLsbD_eq
  intro i hi
  simp only [cmdword, opField, countField, BitVec.getLsbD_or, BitVec.getLsbD_shiftLeft, BitVec.getLsbD_setWidth,
    BitVec.getLsbD_extractLsb', hi]
  obtain hop | ⟨hlow, hcount⟩ | hrsv : i < 8 ∨ (8 ≤ i ∧ i < 15) ∨ 15 ≤ i := by omega
  · simp [hop]
  · simp [Nat.not_lt.mpr hlow, show i - 8 < 32 by omega, show i - 8 < 7 by omega, Nat.add_sub_cancel' hlow]
  · have hbit : c.getLsbD i = false := by
      have := congrArg (BitVec.getLsbD · (i - 15)) h
      simpa [rsvField, show i - 15 < 17 by omega, Nat.add_sub_cancel' hrsv] using this
    simp [hbit, show ¬ i < 8 by omega, show ¬ i - 8 < 7 by omega]

/-- An operation code that decodes is the one of the command it decodes to (R82). -/
theorem decodeOp_eq_cmd {op : Byte} {n : BitVec 7} {i : Instr} (h : decodeOp op n = .cmd i) :
    opcode i = op ∧ i.count = n := by
  unfold decodeOp at h
  split at h <;> cases h
  all_goals
    next hop => exact ⟨(BitVec.eq_of_toNat_eq hop).symm, rfl⟩

/-- The operation codes with no command are 0x00 and those from 0x0A on (R82, R85). -/
theorem exists_decodeOp_eq_illegal_iff (op : Byte) (n : BitVec 7) :
    (∃ why, decodeOp op n = .illegal why) ↔ op = 0 ∨ 0x0A ≤ op.toNat := by
  have hzero : op = 0 ↔ op.toNat = 0 := BitVec.toNat_eq
  rw [hzero]
  unfold decodeOp
  split
  case h_11 => exact ⟨fun _ => by grind, fun _ => ⟨_, rfl⟩⟩
  all_goals simp [*]

/-- A word that decodes has RSV 0 and is the word of its command. -/
theorem encode_of_decode {c : Word} {i : Instr} (h : decode c = .cmd i) : encode i = c := by
  unfold decode at h
  split at h
  · next hrsv =>
    obtain ⟨hop, hcount⟩ := decodeOp_eq_cmd h
    rw [encode, hop, hcount, cmdword_opField_countField hrsv]
  · cases h

/-- A word does not decode in the three cases of R85: the two of its OP, and an RSV that is not 0. -/
theorem exists_decode_eq_illegal_iff (c : Word) :
    (∃ why, decode c = .illegal why) ↔ opField c = 0 ∨ 0x0A ≤ (opField c).toNat ∨ rsvField c ≠ 0 := by
  unfold decode
  split
  · next hrsv => rw [exists_decodeOp_eq_illegal_iff]; simp [hrsv]
  · next hrsv => exact ⟨fun _ => .inr (.inr hrsv), fun _ => ⟨_, rfl⟩⟩

end Sys2Proof

namespace Sys2Proof.Machine

/-! ### Commands and their words (R81, R82) -/

/-- Settles O11, field by field in both directions. -/
theorem encodeDecodeAgree : Obligations.EncodeDecodeAgree :=
  ⟨decode_encode, fun _ _ => encode_of_decode⟩

/-- Settles O12: each word is the word of its command. -/
theorem commandWordsDecode : Obligations.CommandWordsDecode :=
  ⟨decode_encode (.init 0), decode_encode (.process 0), decode_encode (.final 0), decode_encode (.keyload 0),
   decode_encode (.final 3), decode_encode (.final 56), decode_encode (.final 64), decode_encode (.keyload 20),
   decode_encode (.keyload 64), decode_encode (.keydig 0), decode_encode (.hmacInner 0),
   decode_encode (.hmacOuter 0), decode_encode (.clrerr 0), decode_encode (.sreset 0)⟩

/-! ### Illegal words (R85, R202) -/

/-- The issue of an illegal word is its rejection with code 1, whatever the state. -/
theorem issue_of_illegal {v : Word} {why : IllegalWord} (h : decode v = .illegal why) (s : State) :
    issue v s = .next (rejectedWith 1 s) := by
  simp only [issue, h]
  exact congrArg Host.Outcome.next (rejectedWith_errBits .illegal s).symm

/-- Settles O13: the words that do not decode are those of R85, and such a word is rejected at its issue. -/
theorem illegalWordsRejected : Obligations.IllegalWordsRejected := by
  intro c
  have hiff := exists_decode_eq_illegal_iff c
  refine ⟨hiff, fun hc s => ?_⟩
  obtain ⟨why, hwhy⟩ := hiff.mpr hc
  exact issue_of_illegal hwhy s

/-! ### A row of writes of BLK (R44, R54) -/

/-- The buffer `b` after the words of `ws` at the indices `is` are written to it, in that order. -/
def writeWords (ws : Words16) (is : List (Fin 16)) (b : Words16) : Words16 :=
  is.foldl (fun b i => b.set i.val ws[i]) b

theorem getElem_writeWords (ws : Words16) (is : List (Fin 16)) (b : Words16) (j : Fin 16) :
    (writeWords ws is b)[j] = if j ∈ is then ws[j] else b[j] := by
  induction is generalizing b with
  | nil => rfl
  | cons i is ih =>
    have hset : (b.set i ws[i])[j] = if j = i then ws[j] else b[j] := by
      by_cases hij : j = i
      · subst hij; simp
      · simp [hij, Fin.val_ne_of_ne (Ne.symm hij)]
    rw [writeWords, List.foldl_cons, ← writeWords, ih, hset]
    by_cases hmem : j ∈ is <;> simp [hmem]

/-- Writes at all sixteen indices replace the whole buffer. -/
theorem writeWords_finRange (ws b : Words16) : writeWords ws (List.finRange 16) b = ws := by
  ext j hj : 1
  simpa using getElem_writeWords ws (List.finRange 16) b ⟨j, hj⟩

/-- One host turn that writes a word of BLK, busy or idle. -/
theorem step_wrReg_blk {s : State} {i : Fin 16} {v : Word} {ops : List HostOp} (hn : nextTurn s = .host)
    (hp : s.prog = wrReg (.blk i) v :: ops) :
    step s = .next { s with
      prog := ops, turns := s.turns.tail, core := { s.core with blk := s.core.blk.set i v } } := by
  rw [step_wr hn hp (windowOffset_blk i), regAt_blk, writeReg]

/-- Host turns that write words of BLK one after the other change the buffer alone. -/
theorem run_blkWrites (ws : Words16) (is : List (Fin 16)) {s : State} {ops : List HostOp} {ts : List Turn}
    (hp : s.prog = is.map (fun i => wrReg (.blk i) ws[i]) ++ ops)
    (ht : s.turns = List.replicate is.length .host ++ ts) :
    RunsTo s is.length { s with
      prog := ops, turns := ts, core := { s.core with blk := writeWords ws is s.core.blk } } := by
  induction is generalizing s with
  | nil =>
    obtain rfl : s.prog = ops := hp
    obtain rfl : s.turns = ts := ht
    exact run_zero s
  | cons i is ih =>
    rw [List.map_cons, List.cons_append] at hp
    rw [List.length_cons, List.replicate_succ, List.cons_append] at ht
    have hn : nextTurn s = .host := by rw [nextTurn, ht]
    rw [RunsTo, List.length_cons, run_succ _ (step_wrReg_blk hn hp)]
    exact ih rfl (by rw [ht, List.tail_cons])

/-! ### WRBLK (R89) -/

/-- WRBLK writes the words of the string's block in order. -/
theorem wrblk_eq_map (m : Bytes) :
    wrblk m = (List.finRange 16).map fun i => wrReg (.blk i) (blockWords (blockOf m))[i] := by
  rw [wrblk, List.ofFn_eq_map]
  exact List.map_congr_left fun i _ => by rw [Fin.getElem_fin, getElem_blockWords]

/-- The block of a short string is the string with zero bytes after it. -/
theorem toList_blockOf_of_le {m : Bytes} (h : m.length ≤ 64) :
    (blockOf m).toList = m ++ zeros (64 - m.length) := by
  have hlen : (m ++ zeros (64 - m.length)).length = 64 := by simp; omega
  have hblock : blockOf m = blockOf (m ++ zeros (64 - m.length)) := by
    ext i hi : 1
    rw [getElem_blockOf, getElem_blockOf]
    obtain hlt | hge := Nat.lt_or_ge i m.length
    · rw [List.getD_append _ _ _ _ hlt]
    · rw [List.getD_append_right _ _ _ _ hge, List.getD_eq_default _ _ hge, zeros, List.getD_replicate _ (by omega)]
  rw [hblock, toList_blockOf hlen]

/-- WRBLK, in sixteen host turns, leaves the words of the string's block in BLK and changes nothing else. -/
theorem run_wrblk (m : Bytes) {s : State} {ops : List HostOp} {ts : List Turn} (hp : s.prog = wrblk m ++ ops)
    (ht : s.turns = List.replicate 16 .host ++ ts) :
    RunsTo s 16 { s with
      prog := ops, turns := ts, core := { s.core with blk := blockWords (blockOf m) } } := by
  rw [wrblk_eq_map] at hp
  have hrun := run_blkWrites _ _ hp (by rw [ht, List.length_finRange])
  rwa [writeWords_finRange, List.length_finRange] at hrun

/-- Settles O7: the bytes of the buffer WRBLK leaves are those of the string's block. -/
theorem wrblkFillsBlockBuffer : Obligations.WrblkFillsBlockBuffer := by
  intro s m ops ts hm hp ht
  refine ⟨blockWords (blockOf m), ?_, run_wrblk m hp ht⟩
  rw [bytesOfWords_blockWords, toList_blockOf_of_le hm]

end Sys2Proof.Machine
end

section
/-! PROOFS. The SHA-1 function (40_sha1.md Part 1): the padding and its blocks (R102, R103), the message schedule
(R105), and the round functions (R106). -/

namespace Sys2Proof

/-! ### Padding (R102, R103) -/

/-- No smaller number of zero bytes brings the length to 56 modulo 64 (R102). -/
theorem padZeros_le {n z : Nat} (h : (n + 1 + z) % 64 = 56) : padZeros n ≤ z := by
  unfold padZeros; omega

/-- Settles O15: the zero bytes are counted by `padZeros`. -/
theorem paddingOfWholeMessage : Obligations.PaddingOfWholeMessage := by
  intro m
  have hlen : (pad m).length = 64 * ((m.length + 8) / 64 + 1) := length_padtail m _
  exact ⟨padZeros m.length, rfl, (padZeros_spec m.length).1, fun _ => padZeros_le, by omega, hlen⟩

/-- A tail of at most 55 bytes leaves room for the length in its own block. -/
theorem padZeros_of_le {n : Nat} (h : n ≤ 55) : padZeros n = 55 - n := by
  unfold padZeros; omega

/-- A longer tail leaves the length to a second block, behind 56 zero bytes. -/
theorem padZeros_of_ge {n : Nat} (h : 56 ≤ n) (h' : n ≤ 63) : padZeros n = 63 - n + 56 := by
  unfold padZeros; omega

theorem zeros_add (m n : Nat) : zeros (m + n) = zeros m ++ zeros n := List.replicate_add m n 0

/-- Full chunks in front of a tail stay in front of its padding, for they leave the number of zero bytes. -/
theorem padtail_append {c : Bytes} (hc : c.length % 64 = 0) (s : Bytes) (lb : BitVec 64) :
    padtail (c ++ s) lb = c ++ padtail s lb := by
  have hz : padZeros (c ++ s).length = padZeros s.length := padZeros_congr (by rw [List.length_append]; omega)
  rw [padtail, padtail, hz]
  simp only [List.append_assoc]

/-- The first 64 bytes are the bytes of the first block. -/
theorem exists_blocksOf_append {c : Bytes} (h : c.length = 64) (s : Bytes) :
    ∃ b : Block, b.toList = c ∧ blocksOf (c ++ s) = b :: blocksOf s :=
  ⟨blockOf c, toList_blockOf h, blocksOf_append h⟩

theorem exists_blocksOf_one {c : Bytes} (h : c.length = 64) : ∃ b : Block, blocksOf c = [b] ∧ b.toList = c := by
  obtain ⟨b, hb, hbs⟩ := exists_blocksOf_append h []
  rw [List.append_nil, blocksOf_nil_of_length_lt (s := []) (by simp)] at hbs
  exact ⟨b, hbs, hb⟩

theorem exists_blocksOf_two {c d : Bytes} (hc : c.length = 64) (hd : d.length = 64) :
    ∃ b b' : Block, blocksOf (c ++ d) = [b, b'] ∧ b.toList = c ∧ b'.toList = d := by
  obtain ⟨b, hb, hbs⟩ := exists_blocksOf_append hc d
  obtain ⟨b', hbs', hb'⟩ := exists_blocksOf_one hd
  exact ⟨b, b', by rw [hbs, hbs'], hb, hb'⟩

/-- Settles O16: the padded tail cut into strings of 64 bytes. -/
theorem tailPaddingBlocks : Obligations.TailPaddingBlocks := by
  intro s lb
  refine ⟨fun h => ?_, fun h h' => ?_, fun h => ?_, fun c hc => padtail_append hc s _, fun h => ?_⟩
  · rw [padtail, padZeros_of_le h]
    exact exists_blocksOf_one (by simp; omega)
  · have hcut : padtail s lb = (s ++ [0x80] ++ zeros (63 - s.length)) ++ (zeros 56 ++ bytes64 lb) := by
      rw [padtail, padZeros_of_ge h h', zeros_add]
      simp only [List.append_assoc]
    rw [hcut]
    exact exists_blocksOf_two (by simp; omega) (by simp)
  · have hcut : padtail s lb = s ++ ([0x80] ++ zeros 55 ++ bytes64 lb) := by
      have hz : padZeros 64 = 55 := rfl
      rw [padtail, h, hz]
      simp only [List.append_assoc]
    rw [hcut]
    exact exists_blocksOf_two h (by simp)
  · simpa using padtail_append (show s.length % 64 = 0 by omega) [] lb

/-! ### The message schedule and its window (R105, R122) -/

/-- Settles O17: the words of the block, then the recurrence. -/
theorem scheduleRecurrence : Obligations.ScheduleRecurrence := by
  refine fun b => ⟨length_schedule b, fun j => ?_, fun j => schedWord_of_ge b⟩
  rw [schedWord_of_lt b j.isLt, getElem_blockWords, blockWord]

/-- Settles O36, the word used and the window left. -/
theorem windowHoldsSchedule : Obligations.WindowHoldsSchedule :=
  fun _ _ _ h80 hw => ⟨windowStep_getElem h80 hw, windowAt_windowStep h80 hw⟩

/-! ### The round functions (R106) -/

section
variable {t : Nat} (x y z : Word)

theorem roundFn_choose (h : t < 20) : roundFn t x y z = (x &&& y) ||| (~~~x &&& z) := by rw [roundFn, if_pos h]

theorem roundFn_parity (h : 20 ≤ t) (h' : t < 40) : roundFn t x y z = x ^^^ y ^^^ z := by
  rw [roundFn, if_neg (by omega), if_pos h']

theorem roundFn_majority (h : 40 ≤ t) (h' : t < 60) :
    roundFn t x y z = (x &&& y) ||| (x &&& z) ||| (y &&& z) := by
  rw [roundFn, if_neg (by omega), if_neg (by omega), if_pos h']

theorem roundFn_parity_last (h : 60 ≤ t) : roundFn t x y z = x ^^^ y ^^^ z := by
  rw [roundFn, if_neg (by omega), if_neg (by omega), if_neg (by omega)]

end

/-- Settles O18: the formula of each band on the three bits. -/
theorem roundFunctionsBitwise : Obligations.RoundFunctionsBitwise := by
  intro t x y z i _
  have choose : ∀ a b c : Bool, (a && b || !a && c) = bif a then b else c := by decide
  have majority : ∀ a b c : Bool,
      (a && b || a && c || b && c) = decide (2 ≤ a.toNat + b.toNat + c.toNat) := by decide
  refine ⟨fun h => ?_, fun h h' => ?_, fun h h' => ?_, fun h => ?_⟩
  · rw [roundFn_choose x y z (by omega)]
    simpa using choose x[i] y[i] z[i]
  · rw [roundFn_parity x y z h (by omega)]
    simp
  · rw [roundFn_majority x y z h (by omega)]
    simpa using majority x[i] y[i] z[i]
  · rw [roundFn_parity_last x y z h]
    simp

/-- Settles O20, by evaluation. -/
theorem roundZeroOfAbc : Obligations.RoundZeroOfAbc := by
  unfold Obligations.RoundZeroOfAbc
  decide

end Sys2Proof
end

section
/-! PROOFS. The round state machine (40_sha1.md Parts 2 and 3): one invariant that says how far a job is, kept by
every round, and what the jobs of PROCESS and FINAL compute (R113 to R115, R122 to R124). -/

namespace Sys2Proof

open Machine

/-! ### The rounds of a block (R109, R122, R123) -/

section
variable {c : CoreState} {b : Block} {rest : List Block}

theorem toNat_coreStep_t (h : c.t.toNat < 79) : (coreStep c).t.toNat = c.t.toNat + 1 := by
  rw [coreStep_of_lt h]
  have h1 : (1 : BitVec 7).toNat = 1 := rfl
  rw [BitVec.toNat_add, h1]
  omega

/-- Each round of a block takes the working registers one round on (R109). -/
theorem roundStep_w_of_jobInv (hj : JobInv c) (hq : c.q = b :: rest) (ht : c.t.toNat < 80) :
    (roundStep c).w = workAfter c.h b (c.t.toNat + 1) := by
  obtain ⟨hw, hws⟩ := hj b rest hq
  rw [roundStep_w, windowStep_getElem ht hws, hw, workAfter_succ]

/-- After the last round of a block H is the compression of the block. -/
theorem coreStep_h_of_last (hj : JobInv c) (hq : c.q = b :: rest) (ht : c.t.toNat = 79) :
    (coreStep c).h = compress c.h b := by
  rw [coreStep_of_ge ht.ge, endBlock_h, roundStep_w_of_jobInv hj hq (by omega), ht, compress_eq, roundStep_h]

/-- The end of a block moves FIN into DVALID, or keeps both (R123). -/
theorem endBlock_valid (c : CoreState) : ((endBlock c).dvalid || (endBlock c).fin) = (c.dvalid || c.fin) := by
  cases htail : c.q.tail with
  | nil => simp [endBlock_last htail]
  | cons b rest => simp [endBlock_next htail]

/-- The end of the last block of a job sets DONE and clears FIN (R123). -/
theorem endBlock_ended (h : (endBlock c).q = []) : (endBlock c).done = true ∧ (endBlock c).fin = false := by
  rw [endBlock_q] at h
  rw [endBlock_last h]
  exact ⟨rfl, rfl⟩

end

/-! ### What core steps leave unchanged (R36) -/

section
variable {α : Type} (k : Nat) (c : CoreState)

theorem coreSteps_keep {f : CoreState → α} (hf : ∀ c, f (coreStep c) = f c) : f (coreSteps k c) = f c := by
  induction k with
  | zero => rw [coreSteps_zero]
  | succ k ih => rw [coreSteps_succ', hf, ih]

@[simp] theorem coreSteps_blk : (coreSteps k c).blk = c.blk := coreSteps_keep k c coreStep_blk
@[simp] theorem coreSteps_k : (coreSteps k c).k = c.k := coreSteps_keep k c coreStep_k
@[simp] theorem coreSteps_mlen : (coreSteps k c).mlen = c.mlen := coreSteps_keep k c coreStep_mlen
@[simp] theorem coreSteps_err : (coreSteps k c).err = c.err := coreSteps_keep k c coreStep_err
@[simp] theorem coreSteps_errcode : (coreSteps k c).errcode = c.errcode := coreSteps_keep k c coreStep_errcode

end

/-! ### How far a job is (R124) -/

/-- The core is `n` core steps from the end of the job on the blocks `bs` that started with the chaining state `h`
and leaves `v` in DVALID; with `n = 0` it has ended it. -/
structure JobAt (h : Chain) (bs : List Block) (v : Bool) (n : Nat) (c : CoreState) : Prop where
  inv : JobInv c
  round_lt : c.t.toNat < 80
  left : n + c.t.toNat = 80 * c.q.length
  /-- The blocks gone from Q are those compressed into H. -/
  compressed : ∃ gone, bs = gone ++ c.q ∧ c.h = gone.foldl compress h
  valid : (c.dvalid || c.fin) = v
  ended : c.q = [] → c.done = true ∧ c.fin = false

section
variable {h : Chain} {bs : List Block} {v : Bool} {n k : Nat} {c : CoreState}

/-- A job just started has 80 core steps a block before it (R121). -/
theorem jobAt_start (hbs : bs ≠ []) (fin : Bool) (c : CoreState) :
    JobAt c.h bs (c.dvalid || fin) (80 * bs.length) (start bs fin c) := by
  obtain ⟨b, rest, rfl⟩ := List.exists_cons_of_ne_nil hbs
  exact ⟨jobInv_start _ _ _, by simp, by simp, ⟨[], by simp⟩, by simp, by simp⟩

/-- The core is busy exactly while core steps are left. -/
theorem JobAt.busy_eq (hj : JobAt h bs v n c) : busy c = decide (n ≠ 0) := by
  have hleft := hj.left
  have hlt := hj.round_lt
  rw [Bool.eq_iff_iff, busy_eq_true_iff, decide_eq_true_iff, ← List.length_pos_iff]
  omega

/-- A core step brings the end of the job one step nearer: rounds 0..78 move t on, and round 79 compresses the block
at the head of Q into H. -/
theorem JobAt.afterRound (hj : JobAt h bs v (n + 1) c) : JobAt h bs v n (coreStep c) := by
  have hbusy := hj.busy_eq
  obtain ⟨hinv, hlt, hleft, ⟨gone, hbs, hh⟩, hv, -⟩ := hj
  obtain ⟨b, rest, hq⟩ := List.exists_cons_of_ne_nil ((busy_eq_true_iff c).mp (by simpa using hbusy))
  have hinv' := jobInv_coreStep hinv
  by_cases ht : c.t.toNat < 79
  · obtain ⟨hh', hq', hfin', hdv', -⟩ := coreStep_frame_of_lt ht
    have ht' := toNat_coreStep_t ht
    exact ⟨hinv', by omega, by rw [hq']; omega, ⟨gone, by rw [hq', hbs], by rw [hh', hh]⟩, by rw [hdv', hfin', hv],
      by simp [hq', hq]⟩
  · have ht79 : c.t.toNat = 79 := by omega
    have hh' := coreStep_h_of_last hinv hq ht79
    rw [hq, List.length_cons] at hleft
    rw [coreStep_of_ge ht79.ge] at hinv' hh' ⊢
    refine ⟨hinv', by simp, ?_, ⟨gone ++ [b], ?_, ?_⟩, (endBlock_valid _).trans hv, endBlock_ended⟩
    · rw [endBlock_t, endBlock_q, roundStep_q, hq, List.tail_cons]
      show n + 0 = 80 * rest.length
      omega
    · simp [hbs, hq]
    · rw [hh', hh, List.foldl_append, List.foldl_cons, List.foldl_nil]

theorem JobAt.afterRounds (hj : JobAt h bs v n c) (hk : k ≤ n) : JobAt h bs v (n - k) (coreSteps k c) := by
  induction k with
  | zero => rwa [coreSteps_zero]
  | succ k ih =>
    have hnext : n - k = n - (k + 1) + 1 := by omega
    rw [coreSteps_succ']
    exact JobAt.afterRound (hnext ▸ ih (by omega))

/-- A job keeps the core busy to its end. -/
theorem JobAt.busy_until (hj : JobAt h bs v n c) : ∀ k < n, busy (coreSteps k c) = true := by
  intro k hk
  rw [(hj.afterRounds hk.le).busy_eq, decide_eq_true_iff]
  omega

theorem JobAt.afterJob (hj : JobAt h bs v n c) : JobAt h bs v 0 (coreSteps n c) :=
  Nat.sub_self n ▸ hj.afterRounds le_rfl

/-- What an ended job leaves (R123, R124). -/
theorem JobAt.result (hj : JobAt h bs v 0 c) :
    c.q = [] ∧ c.h = bs.foldl compress h ∧ c.t = 0 ∧ c.done = true ∧ c.dvalid = v ∧ c.fin = false := by
  have hq : c.q = [] := (busy_eq_false_iff c).mp hj.busy_eq
  obtain ⟨-, -, hleft, ⟨gone, hbs, hh⟩, hv, hend⟩ := hj
  obtain ⟨hdone, hfin⟩ := hend hq
  have ht : c.t = 0 := by
    rw [hq] at hleft
    exact BitVec.eq_of_toNat_eq (by simpa using hleft)
  rw [hq, List.append_nil] at hbs
  exact ⟨hq, by rw [hh, hbs], ht, hdone, by simpa [hfin] using hv, hfin⟩

/-- H is the chaining state from before the job until the first block is done. -/
theorem JobAt.h_eq (hj : JobAt h bs v n c) (hn : 80 * bs.length < n + 80) : c.h = h := by
  obtain ⟨-, -, hleft, ⟨gone, hbs, hh⟩, -, -⟩ := hj
  have hlen : bs.length = gone.length + c.q.length := by rw [hbs, List.length_append]
  have hgone : gone = [] := List.eq_nil_of_length_eq_zero (by omega)
  rw [hh, hgone, List.foldl_nil]

/-- The last core step of a job leaves the working registers and the window of the last round of its last block. -/
theorem JobAt.last_round (hj : JobAt h bs v 1 c) {b : Block} (hb : bs.getLast? = some b) :
    (coreStep c).w = workAfter (bs.dropLast.foldl compress h) b 80 ∧
      ∀ j : Fin 16, (coreStep c).ws[j] = schedWord b (64 + j.val) := by
  obtain ⟨hinv, hlt, hleft, ⟨gone, hbs, hh⟩, -, -⟩ := hj
  have ht : c.t.toNat = 79 := by omega
  have hlen : c.q.length = 1 := by omega
  obtain ⟨b', hq⟩ := List.length_eq_one_iff.mp hlen
  obtain rfl : b' = b := by simpa [hbs, hq] using hb
  have hdrop : bs.dropLast = gone := by rw [hbs, hq, List.dropLast_concat]
  have hw := roundStep_w_of_jobInv hinv hq hlt
  have hws := windowAt_windowStep (by omega) (hinv b' [] hq).2
  rw [coreStep_of_ge ht.ge, endBlock_last (c := roundStep c) (by rw [roundStep_q, hq, List.tail_cons])]
  refine ⟨?_, fun j => ?_⟩
  · rw [hdrop, ← hh, hw, ht]
  · show (windowStep c.t.toNat c.ws)[j] = _
    rw [← hws.getElem (i := 64 + j.val) (j := j.val) (by omega) (by omega) (by omega)]
    simp only [Nat.mod_eq_of_lt j.isLt, Fin.getElem_fin]

end

/-! ### Obligations of the round state machine -/

/-- Settles O37: the job has 80 core steps a block, and then its result. -/
theorem jobComputesCompression : Obligations.JobComputesCompression := by
  intro c bs fin hlen
  have hpos : 0 < bs.length := by omega
  have hat := jobAt_start (List.ne_nil_of_length_pos hpos) fin c
  refine ⟨fun k hk => (busy_eq_true_iff _).mp (hat.busy_until k hk), ?_⟩
  obtain ⟨hq, hh, ht, hdone, hv, hfin⟩ := hat.afterJob.result
  refine ⟨hq, hh, ht, hdone, hv, hfin, fun b hb => ?_⟩
  obtain ⟨n, hn⟩ : ∃ n, 80 * bs.length = n + 1 := Nat.exists_eq_add_one.mpr (by omega)
  rw [hn] at hat
  have hlast := hat.afterRounds (Nat.le_succ n)
  rw [Nat.add_sub_cancel_left] at hlast
  rw [hn, coreSteps_succ']
  exact hlast.last_round hb

/-- Settles O39: fewer than 80 core steps leave the first block unfinished. -/
theorem digestKeepsChainingValueDuringBlock : Obligations.DigestKeepsChainingValueDuringBlock := by
  intro c bs fin k hbs hk i
  have hpos := List.length_pos_of_ne_nil hbs
  have hat := (jobAt_start hbs fin c).afterRounds (k := k) (by omega)
  rw [regRead_digest, hat.h_eq (by omega)]

/-- Settles O34: one turn of the core, busy before round 79 or idle. -/
theorem coreTurnRunsOneRound : Obligations.CoreTurnRunsOneRound := by
  intro s ts hts
  have hstep : step s = .next (coreTurn (popTurn s)) := step_core (by rw [nextTurn, hts])
  have hpop : popTurn s = { s with turns := ts } := by rw [popTurn, hts, List.tail_cons]
  refine ⟨fun hb ht => ?_, fun hb => ?_⟩
  · rw [hstep, hpop, coreTurn, if_pos hb, coreStep_of_lt ht]
    rfl
  · rw [hstep, hpop, coreTurn, if_neg (by simp [hb])]

/-- Settles O35: the end of a block that is not the last of its job, and of one that is. -/
theorem lastRoundEndsBlock : Obligations.LastRoundEndsBlock := by
  intro s ts b rest hts ht hq
  have hbusy : busy s.core = true := (busy_eq_true_iff _).mpr (by simp [hq])
  have ht79 : 79 ≤ s.core.t.toNat := by rw [ht]; decide
  have htail : (roundStep s.core).q.tail = rest := by rw [roundStep_q, hq, List.tail_cons]
  have hstep : step s = .next { s with turns := ts, core := endBlock (roundStep s.core) } := by
    rw [step_core (by rw [nextTurn, hts]), popTurn, hts, List.tail_cons, coreTurn, if_pos hbusy,
      coreStep_of_ge ht79]
  refine ⟨fun b' rest' hrest => ?_, fun hrest => ?_⟩
  · rw [hstep, endBlock_next (htail.trans hrest), hrest]
    rfl
  · rw [hstep, endBlock_last (htail.trans hrest)]
    rfl

/-! ### Accepted commands (R183) -/

theorem exec_of_accepted {i : Instr} {s : State} (h : check i s.core = none) :
    exec i s = .next { s with core := effectOf i { s.core with done := false } } := by
  rw [exec_eq, coreAfter_accepted h]

/-- An idle core accepts a well-formed command that needs no finished digest (R181). -/
theorem check_eq_none_of_idle {i : Instr} {c : CoreState} (hb : busy c = false) (hw : i.wellFormed = true)
    (hd : needsDigest i = false) : check i c = none :=
  (check_eq_none_iff i c).mpr ⟨.inl hb, hw, by simp [hd]⟩

/-- Settles O21: the rule of INIT at its acceptance. -/
theorem initResult : Obligations.InitResult := by
  intro s hb
  rw [exec_of_accepted (check_eq_none_of_idle hb rfl rfl)]
  rfl

/-- PROCESS starts a job of one block that leaves DVALID at 0 (R114). -/
theorem jobAt_processEffect (c : CoreState) : JobAt c.h [bytesOfWords c.blk] false 80 (processEffect c) :=
  jobAt_start (List.cons_ne_nil _ _) false { c with mlen := c.mlen + 512, dvalid := false }

/-- Settles O22: the rule of PROCESS at its acceptance, and its job. -/
theorem processResult : Obligations.ProcessResult := by
  intro s hb
  have hat := jobAt_processEffect { s.core with done := false }
  refine ⟨_, exec_of_accepted (check_eq_none_of_idle hb rfl rfl), ?_, hat.busy_until, ?_⟩
  · rw [effectOf, processEffect, start, load, blockWords_bytesOfWords]
  · obtain ⟨hq, hh, -, hdone, hv, -⟩ := hat.afterJob.result
    exact ⟨(busy_eq_false_iff _).mpr hq, hdone, hv, by simp [effectOf], hh⟩

/-- The blocks of FINAL n: the first n bytes of BLK as the padded tail of a message of MLEN + 8n bits (R115). -/
def finalBlocks (n : BitVec 7) (c : CoreState) : List Block :=
  blocksOf (padtail (blkPrefix n c) (c.mlen + bitsOf n))

theorem finalBlocks_ne_nil (n : BitVec 7) (c : CoreState) : finalBlocks n c ≠ [] :=
  List.ne_nil_of_length_pos (length_finalBlocks n c _).1

theorem length_blkPrefix {n : BitVec 7} (hn : n.toNat ≤ 64) (c : CoreState) : (blkPrefix n c).length = n.toNat := by
  simp [blkPrefix, hn]

theorem length_finalBlocks_eq {n : BitVec 7} (hn : n.toNat ≤ 64) (c : CoreState) :
    (finalBlocks n c).length = (if n.toNat ≤ 55 then 0 else 1) + 1 := by
  rw [finalBlocks, length_blocksOf, length_padtail, length_blkPrefix hn]
  split <;> omega

theorem bitsOf_eq_ofNat (n : BitVec 7) : bitsOf n = BitVec.ofNat 64 (8 * n.toNat) := by
  apply BitVec.eq_of_toNat_eq
  rw [bitsOf, BitVec.toNat_mul]
  simp

/-- FINAL starts the job of its blocks, which leaves DVALID at 1 (R115). -/
theorem jobAt_finalEffect (n : BitVec 7) (c : CoreState) :
    JobAt c.h (finalBlocks n c) true (80 * (finalBlocks n c).length) (finalEffect n c) :=
  jobAt_start (finalBlocks_ne_nil n c) true { c with mlen := c.mlen + bitsOf n, dvalid := false }

/-- Settles O23: the rule of FINAL at its acceptance, and its job. -/
theorem finalResult : Obligations.FinalResult := by
  intro n s hn hb
  have hat := jobAt_finalEffect n { s.core with done := false }
  have hlen := length_finalBlocks_eq hn { s.core with done := false }
  have hcheck : check (.final n) s.core = none := check_eq_none_of_idle hb (decide_eq_true hn) rfl
  obtain ⟨b, rest, hbs⟩ := List.exists_cons_of_ne_nil (finalBlocks_ne_nil n { s.core with done := false })
  have heff : effectOf (.final n) { s.core with done := false } = start (b :: rest) true
      { s.core with mlen := s.core.mlen + bitsOf n, dvalid := false, done := false } := by
    rw [effectOf, finalEffect, ← finalBlocks, hbs]
  rw [hbs] at hat hlen
  refine ⟨b, rest, _, ?_, by simpa using hlen, exec_of_accepted hcheck, ?_, hat.busy_until, ?_⟩
  · rw [← bitsOf_eq_ofNat]
    exact hbs
  · rw [heff, bitsOf_eq_ofNat, start, load]
  · obtain ⟨hq, hh, -, hdone, hv, -⟩ := hat.afterJob.result
    exact ⟨(busy_eq_false_iff _).mpr hq, hdone, hv, by simp [effectOf, bitsOf_eq_ofNat], hh⟩

end Sys2Proof
end

section
/-! PROOFS. A running job under any interleaving of core and host turns (R12, R60, R124, R237). -/

namespace Sys2Proof

open Machine

/-! ### The turns a run uses up (R12) -/

theorem hostTurn_turns {s t : State} (h : hostTurn s = .next t) : t.turns = s.turns := by
  obtain ⟨-, rfl⟩ | ⟨_, _, _, _, -, -, rfl⟩ | ⟨_, _, _, _, _, -, -, rfl⟩ | ⟨_, -, ⟨-, rfl⟩ | ⟨-, rfl⟩⟩ |
    ⟨_, -, ⟨-, rfl⟩ | ⟨-, rfl⟩⟩ := hostTurn_cases h <;> rfl

theorem step_turns {s t : State} (h : step s = .next t) : t.turns = s.turns.tail := by
  obtain ⟨-, rfl⟩ | ⟨-, rfl⟩ | ⟨-, h⟩ := step_cases h
  · rw [coreTurn_turns, popTurn_turns]
  · rw [resetTurn_turns, popTurn_turns]
  · rw [hostTurn_turns h, popTurn_turns]

theorem nextTurn_of_cons {s : State} {a : Turn} {ts : List Turn} (h : s.turns = a :: ts) : nextTurn s = a := by
  rw [nextTurn, h]

/-! ### A job under interleaving (R124, R237) -/

section
variable {h : Chain} {bs : List Block} {v : Bool} {n : Nat} {s t : State}

/-- The job looks at its own registers alone: H, A..E, WS, t, Q, FIN, DVALID and DONE. -/
theorem JobAt.congr {c d : CoreState} (hj : JobAt h bs v n c) (hh : d.h = c.h) (hw : d.w = c.w) (hws : d.ws = c.ws)
    (ht : d.t = c.t) (hq : d.q = c.q) (hfin : d.fin = c.fin) (hdv : d.dvalid = c.dvalid) (hdone : d.done = c.done) :
    JobAt h bs v n d := by
  obtain ⟨hinv, hlt, hleft, hgone, hv, hend⟩ := hj
  exact ⟨hinv.congr hh hw hws ht hq, by rwa [ht], by rwa [ht, hq], by rwa [hq, hh], by rwa [hdv, hfin],
    by rwa [hq, hdone, hfin]⟩

/-- A turn of the core takes the job one core step on, and an ended job not at all. -/
theorem JobAt.afterCoreTurn (hj : JobAt h bs v n s.core) : JobAt h bs v (n - 1) (coreTurn s).core := by
  rw [coreTurn_core, hj.busy_eq]
  cases n with
  | zero => exact hj
  | succ n => exact hj.afterRound

/-- No step that accepts a command starts from operations that write no CMD. -/
theorem not_acceptsCommand {i : Instr} (hops : ∀ op ∈ s.prog, notCommand op = true) : ¬ AcceptsCommand s i := by
  rintro ⟨⟨-, size, addr, v, ops, hp, ho, -⟩, -⟩
  have hop := hops (.wr size addr v) (by simp [hp])
  simp [notCommand, ho] at hop

/-- A host turn that issues no command leaves the job where it is. -/
theorem JobAt.afterHostStep (hj : JobAt h bs v n s.core) (hn : nextTurn s = .host)
    (hops : ∀ op ∈ s.prog, notCommand op = true) (hs : step s = .next t) : JobAt h bs v n t.core := by
  cases coreChange_of_step hs with
  | keep ht => rwa [ht]
  | round hc _ _ => rw [hn] at hc; cases hc
  | reset hr _ => rw [hn] at hr; cases hr
  | accept i ha _ => exact absurd ha (not_acceptsCommand hops)
  | reject e ht =>
    rw [ht]
    exact hj.congr (by simp) (by simp) (by simp) (by simp) (by simp) (by simp) (by simp) (by simp)
  | writeInten w ht | writeBlk j w _ ht => rw [ht]; exact hj.congr rfl rfl rfl rfl rfl rfl rfl rfl

/-- Over listed turns a job goes on by the core's turns alone. -/
theorem JobAt.run_turns {ts : List Turn} (hts : s.turns = ts) (hreset : Turn.resetInput ∉ ts)
    (hops : ∀ op ∈ s.prog, insideInterface op = true ∧ notCommand op = true) (hj : JobAt h bs v n s.core) :
    ∃ t, RunsTo s ts.length t ∧ JobAt h bs v (n - ts.count .core) t.core := by
  induction ts generalizing s n with
  | nil => exact ⟨s, run_zero s, hj⟩
  | cons a ts ih =>
    obtain ⟨u, hs, -⟩ := insideInterfaceNeverStops s fun op hop => (hops op hop).1
    have hopsu : ∀ op ∈ u.prog, insideInterface op = true ∧ notCommand op = true :=
      fun op hop => hops op ((step_prog_suffix hs).mem hop)
    have htsu : u.turns = ts := by rw [step_turns hs, hts, List.tail_cons]
    have hn := nextTurn_of_cons hts
    have hju : JobAt h bs v (n - [a].count .core) u.core := by
      cases a with
      | host => exact hj.afterHostStep hn (fun op hop => (hops op hop).2) hs
      | core =>
        rw [step_core hn] at hs
        cases hs
        exact JobAt.afterCoreTurn (s := popTurn s) hj
      | resetInput => simp at hreset
    obtain ⟨t, hrun, hjt⟩ := ih htsu (fun hmem => hreset (.tail _ hmem)) hopsu hju
    refine ⟨t, (run_succ _ hs).trans hrun, ?_⟩
    rwa [Nat.sub_sub, ← List.count_append] at hjt

end

/-- Settles O38: after the listed turns the job is as many core steps on as the core had turns. -/
theorem jobUnderAnyInterleaving : Obligations.JobUnderAnyInterleaving := by
  intro c bs fin s hlen hs hops hreset
  have hbs : bs ≠ [] := List.ne_nil_of_length_pos (by omega)
  obtain ⟨t, hrun, hj⟩ := JobAt.run_turns rfl hreset hops (hs ▸ jobAt_start hbs fin c)
  refine ⟨t, hrun, fun hlt => ?_, fun hge => ?_⟩
  · rw [hj.busy_eq, decide_eq_true_iff]
    omega
  · rw [Nat.sub_eq_zero_of_le hge] at hj
    obtain ⟨hq, hresult⟩ := hj.result
    exact ⟨(busy_eq_false_iff _).mpr hq, hresult⟩

end Sys2Proof
end

section
/-! PROOFS. Whole host procedures (R89, R125) under any turns without the reset input: what a row of host operations
makes of the core, and the digest that SHA1MSG leaves. -/

namespace Sys2Proof

open Machine

/-! ### Runs of host operations -/

theorem RunsTo.refl (s : State) : RunsTo s 0 s := run_zero s

theorem RunsTo.trans {s t u : State} {j k : Nat} (h : RunsTo s j t) (h' : RunsTo t k u) : RunsTo s (j + k) u :=
  (run_add k h).trans h'

theorem RunsTo.head {s t u : State} {k : Nat} (h : step s = .next t) (h' : RunsTo t k u) : RunsTo s (k + 1) u :=
  (run_succ k h).trans h'

/-- With none of the given turns the reset input, the host operations `ops` run to their end and turn the core `c`
into the core `d`, whatever the other turns and the operations that follow. That they end rests on log 2. -/
def Executes (c : CoreState) (ops : List HostOp) (d : CoreState) : Prop :=
  ∀ (s : State) (rest : List HostOp), s.core = c → s.prog = ops ++ rest → Turn.resetInput ∉ s.turns →
    ∃ k t, RunsTo s k t ∧ t.core = d ∧ t.prog = rest ∧ Turn.resetInput ∉ t.turns

theorem Executes.nil (c : CoreState) : Executes c [] c :=
  fun s _ hc hp hr => ⟨0, s, RunsTo.refl s, hc, hp, hr⟩

theorem Executes.append {c d e : CoreState} {ops ops' : List HostOp} (h : Executes c ops d)
    (h' : Executes d ops' e) : Executes c (ops ++ ops') e := by
  intro s rest hc hp hr
  obtain ⟨j, t, hj, hd, hpt, hrt⟩ := h s (ops' ++ rest) hc (by rw [hp, List.append_assoc]) hr
  obtain ⟨k, u, hk, he, hpu, hru⟩ := h' t rest hd hpt hrt
  exact ⟨j + k, u, hj.trans hk, he, hpu, hru⟩

/-- A step uses up a turn, and gives no new one. -/
theorem resetInput_notMem_of_step {s t : State} (hs : step s = .next t) (hr : Turn.resetInput ∉ s.turns) :
    Turn.resetInput ∉ t.turns := by
  rw [step_turns hs]
  exact fun h => hr (List.mem_of_mem_tail h)

/-! ### Turns that change nothing (R28, log 2) -/

section
variable {c : CoreState} {ops : List HostOp}

/-- While the turns of the other agent change neither the core nor the host's operations, the turn comes to the core
of a busy core, and to the host of an idle one. -/
theorem exists_run_to_turn {a : Turn} (ha : (if busy c then Turn.core else .host) = a)
    (hkeep : ∀ s : State, s.core = c → s.prog = ops → nextTurn s ≠ a → nextTurn s ≠ .resetInput →
      ∃ t, step s = .next t ∧ t.core = c ∧ t.prog = ops)
    {s : State} (hc : s.core = c) (hp : s.prog = ops) (hr : Turn.resetInput ∉ s.turns) :
    ∃ k t, RunsTo s k t ∧ t.core = c ∧ t.prog = ops ∧ Turn.resetInput ∉ t.turns ∧ nextTurn t = a := by
  generalize hts : s.turns = ts
  induction ts generalizing s with
  | nil => exact ⟨0, s, RunsTo.refl s, hc, hp, hr, by rw [nextTurn, hts, hc]; exact ha⟩
  | cons b ts ih =>
    have hn := nextTurn_of_cons hts
    by_cases hb : nextTurn s = a
    · exact ⟨0, s, RunsTo.refl s, hc, hp, hr, hb⟩
    · have hnr : nextTurn s ≠ .resetInput := by
        intro h
        simp [hts, ← hn, h] at hr
      obtain ⟨u, hs, hcu, hpu⟩ := hkeep s hc hp hb hnr
      have htu : u.turns = ts := by rw [step_turns hs, hts, List.tail_cons]
      obtain ⟨k, t, hrun, ht⟩ := ih hcu hpu (resetInput_notMem_of_step hs hr) htu
      exact ⟨k + 1, t, hrun.head hs, ht⟩

/-- At an idle core the host gets its turn. -/
theorem exists_run_to_host_turn (hb : busy c = false) {s : State} (hc : s.core = c) (hp : s.prog = ops)
    (hr : Turn.resetInput ∉ s.turns) :
    ∃ k t, RunsTo s k t ∧ t.core = c ∧ t.prog = ops ∧ Turn.resetInput ∉ t.turns ∧ nextTurn t = .host := by
  refine exists_run_to_turn (by simp [hb]) (fun s hc hp hn hnr => ?_) hc hp hr
  cases hcore : nextTurn s with
  | host => exact absurd hcore hn
  | resetInput => exact absurd hcore hnr
  | core => exact ⟨_, step_core hcore, by simp [hc, hb], by simp [hp]⟩

/-- While the host polls, a busy core gets its turn. -/
theorem exists_run_to_core_turn (hb : busy c = true) {s : State} (hc : s.core = c) (hp : s.prog = .poll :: ops)
    (hr : Turn.resetInput ∉ s.turns) :
    ∃ k t, RunsTo s k t ∧ t.core = c ∧ t.prog = .poll :: ops ∧ Turn.resetInput ∉ t.turns ∧ nextTurn t = .core := by
  refine exists_run_to_turn (by simp [hb]) (fun s hc hp hn hnr => ?_) hc hp hr
  cases hcore : nextTurn s with
  | core => exact absurd hcore hn
  | resetInput => exact absurd hcore hnr
  | host => exact ⟨_, step_poll hcore hp, hc, by simp [hc, hb, hp]⟩

end

/-- The core `c` with the bytes `m` in BLK. -/
def withBlock (m : Bytes) (c : CoreState) : CoreState := { c with blk := blockWords (blockOf m) }

section
variable (m : Bytes) (c : CoreState)

@[simp] theorem withBlock_blk : (withBlock m c).blk = blockWords (blockOf m) := by rw [withBlock]
@[simp] theorem withBlock_h : (withBlock m c).h = c.h := by rw [withBlock]
@[simp] theorem withBlock_mlen : (withBlock m c).mlen = c.mlen := by rw [withBlock]
@[simp] theorem withBlock_k : (withBlock m c).k = c.k := by rw [withBlock]
@[simp] theorem withBlock_err : (withBlock m c).err = c.err := by rw [withBlock]
@[simp] theorem withBlock_errcode : (withBlock m c).errcode = c.errcode := by rw [withBlock]
@[simp] theorem withBlock_q : (withBlock m c).q = c.q := by rw [withBlock]
theorem busy_withBlock : busy (withBlock m c) = busy c := by rw [busy, withBlock_q, busy]

end

/-! ### The host operations of the procedures (R88, R89) -/

section
variable {c d : CoreState}

/-- An operation at an idle core does what its host turn does. -/
theorem executes_of_host_step {op : HostOp} (hb : busy c = false)
    (hstep : ∀ (s : State) (rest : List HostOp), nextTurn s = .host → s.core = c → s.prog = op :: rest →
      ∃ t, step s = .next t ∧ t.core = d ∧ t.prog = rest) : Executes c [op] d := by
  intro s rest hc hp hr
  obtain ⟨k, u, hrun, hcu, hpu, hru, hn⟩ := exists_run_to_host_turn hb hc hp hr
  obtain ⟨t, hs, hct, hpt⟩ := hstep u rest hn hcu hpu
  exact ⟨k + 1, t, hrun.trans ((RunsTo.refl t).head hs), hct, hpt, resetInput_notMem_of_step hs hru⟩

theorem executes_wrReg (hb : busy c = false) {r : Reg} (v : Word)
    (ho : windowOffset .word (.offset (regOffset r)) = some (regOffset r)) :
    Executes c [wrReg r v] (coreAfterWrite (regAt (regOffset r)) v c) :=
  executes_of_host_step hb fun _ _ hn hc hp =>
    ⟨_, by rw [step_wr hn hp ho, writeReg_eq], by rw [hc], rfl⟩

/-- A command issued at an idle core (R180). -/
theorem executes_cmdOp (hb : busy c = false) (i : Instr) : Executes c [cmdOp i] (coreAfter i c) := by
  have hword : coreAfterWrite (regAt (regOffset .cmd)) (encode i) c = coreAfter i c := by
    show coreAfterWord (encode i) c = coreAfter i c
    rw [coreAfterWord, decode_encode]
  exact hword ▸ executes_wrReg hb (r := .cmd) (encode i) rfl

/-- POLL waits for the end of the job: its turns before leave the core alone, and the core's turns run the rounds that
are left. -/
theorem executes_poll {h : Chain} {bs : List Block} {v : Bool} {n : Nat} (hj : JobAt h bs v n c) :
    Executes c [.poll] (coreSteps n c) := by
  induction n generalizing c with
  | zero =>
    have hb : busy c = false := hj.busy_eq
    rw [coreSteps_zero]
    exact executes_of_host_step hb fun s rest hn hc hp => ⟨_, step_poll hn hp, hc, by simp [hc, hb]⟩
  | succ n ih =>
    have hb : busy c = true := hj.busy_eq
    intro s rest hc hp hr
    obtain ⟨j, u, hrun, hcu, hpu, hru, hn⟩ := exists_run_to_core_turn hb hc hp hr
    have hs := step_core hn
    obtain ⟨k, t, hrun', ht⟩ := ih hj.afterRound (coreTurn (popTurn u)) rest (by simp [hcu, hb]) (by simp [hpu])
      (resetInput_notMem_of_step hs hru)
    rw [coreSteps_succ]
    exact ⟨j + (k + 1), t, hrun.trans (hrun'.head hs), ht⟩

/-- A command that starts a job, and the wait for its end. -/
theorem executes_job (hb : busy c = false) {i : Instr} (hc : check i c = none) {h : Chain} {bs : List Block}
    {v : Bool} {n : Nat} (hj : JobAt h bs v n (effectOf i { c with done := false })) :
    Executes c [cmdOp i, .poll] (coreSteps n (effectOf i { c with done := false })) := by
  have hcmd := executes_cmdOp hb i
  rw [coreAfter_accepted hc] at hcmd
  exact hcmd.append (executes_poll hj)

/-- Writes of words of BLK at an idle core. -/
theorem executes_blkWrites (hb : busy c = false) (ws : Words16) (is : List (Fin 16)) :
    Executes c (is.map fun i => wrReg (.blk i) ws[i]) { c with blk := writeWords ws is c.blk } := by
  induction is generalizing c with
  | nil => exact .nil c
  | cons i is ih =>
    have hwrite := executes_wrReg hb (r := .blk i) ws[i] (windowOffset_blk i)
    rw [regOffset_blk, regAt_blk] at hwrite
    exact hwrite.append (ih (c := coreAfterWrite (.blk i) ws[i] c) hb)

/-- WRBLK at an idle core, under any turns (R89). -/
theorem executes_wrblk (hb : busy c = false) (m : Bytes) :
    Executes c (wrblk m) (withBlock m c) := by
  have hwrites := executes_blkWrites hb (blockWords (blockOf m)) (List.finRange 16)
  rwa [writeWords_finRange, ← wrblk_eq_map] at hwrites

end

/-! ### Messages (R89, R102, R103) -/

theorem messageOps_of_lt {m : Bytes} (h : m.length < 64) :
    messageOps m = wrblk m ++ [cmdOp (.final (BitVec.ofNat 7 m.length)), .poll] := by
  simp [messageOps, chunkOps, Nat.div_eq_of_lt h, Nat.mod_eq_of_lt h]

/-- The message with 64 bytes in front: its chunks and its tail move on by one chunk. -/
theorem messageOps_append {p : Bytes} (hp : p.length = 64) (m : Bytes) :
    messageOps (p ++ m) = wrblk p ++ [cmdOp (.process 0), .poll] ++ messageOps m := by
  have hdiv : (p ++ m).length / 64 = m.length / 64 + 1 := by rw [List.length_append, hp]; omega
  have hmod : (p ++ m).length % 64 = m.length % 64 := by rw [List.length_append, hp]; omega
  have hdrop (j : Nat) : (p ++ m).drop (64 * (j + 1)) = m.drop (64 * j) := by
    rw [show 64 * (j + 1) = p.length + 64 * j by omega, List.drop_length_add_append]
  have htake : ((p ++ m).drop (64 * 0)).take 64 = p := by rw [Nat.mul_zero, List.drop_zero, ← hp, List.take_left]
  have hchunks : chunkOps (p ++ m) = wrblk p ++ [cmdOp (.process 0), .poll] ++ chunkOps m := by
    rw [chunkOps, hdiv, List.range_succ_eq_map, List.flatMap_cons, List.flatMap_map, htake]
    simp only [Nat.succ_eq_add_one, hdrop, chunkOps]
  rw [messageOps, hchunks, hdiv, hdrop, hmod, messageOps]
  simp only [List.append_assoc]

/-- A property of messages by the 64-byte chunks in front of a tail of fewer than 64 bytes. -/
theorem chunk_induction {motive : Bytes → Prop} (tail : ∀ m : Bytes, m.length < 64 → motive m)
    (chunk : ∀ p m : Bytes, p.length = 64 → motive m → motive (p ++ m)) (m : Bytes) : motive m := by
  by_cases h : m.length < 64
  · exact tail m h
  · rw [← List.take_append_drop 64 m]
    exact chunk _ _ (by simp; omega) (chunk_induction tail chunk (m.drop 64))
termination_by m.length
decreasing_by simp; omega

/-- The core `d` is idle with `h` in H and `l` in MLEN, and has the key and the error latch of `c`. -/
structure HashedTo (c : CoreState) (h : Chain) (l : BitVec 64) (d : CoreState) : Prop where
  idle : busy d = false
  h_eq : d.h = h
  mlen_eq : d.mlen = l
  k_eq : d.k = c.k
  err_eq : d.err = c.err
  errcode_eq : d.errcode = c.errcode

theorem HashedTo.trans {c d e : CoreState} {h h' : Chain} {l l' : BitVec 64} (hd : HashedTo c h l d)
    (he : HashedTo d h' l' e) : HashedTo c h' l' e where
  idle := he.idle
  h_eq := he.h_eq
  mlen_eq := he.mlen_eq
  k_eq := he.k_eq.trans hd.k_eq
  err_eq := he.err_eq.trans hd.err_eq
  errcode_eq := he.errcode_eq.trans hd.errcode_eq

theorem bitLength_append {p : Bytes} (hp : p.length = 64) (m : Bytes) : bitLength (p ++ m) = 512 + bitLength m := by
  rw [bitLength, bitLength, List.length_append, hp, Nat.mul_add, BitVec.ofNat_add]
  rfl

/-- The blocks of a padded message are its first 64 bytes and the blocks of the rest, padded (R103). -/
theorem blocksOf_padtail_append {p : Bytes} (hp : p.length = 64) (m : Bytes) (lb : BitVec 64) :
    blocksOf (padtail (p ++ m) lb) = blockOf p :: blocksOf (padtail m lb) := by
  rw [padtail_append (by omega), blocksOf_append hp]

/-- With a string of fewer than 64 bytes in BLK, the blocks of FINAL are those of the string, padded. -/
theorem finalBlocks_blockOf {m : Bytes} (hm : m.length < 64) {e : CoreState} (hblk : e.blk = blockWords (blockOf m)) :
    finalBlocks (BitVec.ofNat 7 m.length) e = blocksOf (padtail m (e.mlen + bitLength m)) := by
  have hn : (BitVec.ofNat 7 m.length).toNat = m.length := by
    rw [BitVec.toNat_ofNat, Nat.mod_eq_of_lt (by omega)]
  rw [finalBlocks, blkPrefix, bitsOf_eq_ofNat, hn, hblk, bytesOfWords_blockWords, toList_blockOf_of_le hm.le,
    List.take_left, bitLength]

section
variable {c e : CoreState} {h : Chain} {l : BitVec 64} (he : HashedTo c h l e)
include he

/-- The job of PROCESS compresses the block in BLK into H (R114). -/
theorem HashedTo.process {b : Block} (hblk : e.blk = blockWords b) :
    HashedTo c (compress h b) (l + 512) (coreSteps 80 (processEffect e)) := by
  obtain ⟨-, rfl, rfl, hk, herr, hcode⟩ := he
  obtain ⟨hq, hh, -⟩ := (jobAt_processEffect e).afterJob.result
  rw [hblk, bytesOfWords_blockWords] at hh
  exact ⟨(busy_eq_false_iff _).mpr hq, hh, by simp, by simpa, by simpa, by simpa⟩

/-- The job of FINAL compresses the padded blocks of the string in BLK into H (R115). -/
theorem HashedTo.final {m : Bytes} (hm : m.length < 64) (hblk : e.blk = blockWords (blockOf m)) :
    HashedTo c ((blocksOf (padtail m (l + bitLength m))).foldl compress h) (l + bitLength m)
      (coreSteps (80 * (finalBlocks (BitVec.ofNat 7 m.length) e).length)
        (finalEffect (BitVec.ofNat 7 m.length) e)) := by
  obtain ⟨-, rfl, rfl, hk, herr, hcode⟩ := he
  obtain ⟨hq, hh, -⟩ := (jobAt_finalEffect (BitVec.ofNat 7 m.length) e).afterJob.result
  have hbits : bitsOf (BitVec.ofNat 7 m.length) = bitLength m := by
    rw [bitsOf_eq_ofNat, BitVec.toNat_ofNat, Nat.mod_eq_of_lt (by omega), bitLength]
  rw [← finalBlocks_blockOf hm hblk]
  exact ⟨(busy_eq_false_iff _).mpr hq, hh, by simp [hbits], by simpa, by simpa, by simpa⟩

end

section
variable {c : CoreState} (hb : busy c = false)
include hb

theorem hashedTo_withBlock (m : Bytes) : HashedTo c c.h c.mlen { withBlock m c with done := false } :=
  ⟨by simpa using hb, by simp, by simp, by simp, by simp, by simp⟩

/-- A string written to BLK, a command that starts a job, and the wait for its end. -/
theorem executes_wrblk_job (m : Bytes) {i : Instr} (hw : i.wellFormed = true) (hd : needsDigest i = false)
    {h : Chain} {bs : List Block} {v : Bool} {n : Nat}
    (hj : JobAt h bs v n (effectOf i { withBlock m c with done := false })) :
    Executes c (wrblk m ++ [cmdOp i, .poll]) (coreSteps n (effectOf i { withBlock m c with done := false })) :=
  have hb' := (busy_withBlock m c).trans hb
  (executes_wrblk hb m).append (executes_job hb' (check_eq_none_of_idle hb' hw hd) hj)

/-- WRBLK, PROCESS and POLL compress a chunk into H (R89, R114). -/
theorem executes_chunk (p : Bytes) :
    ∃ d, Executes c (wrblk p ++ [cmdOp (.process 0), .poll]) d ∧
      HashedTo c (compress c.h (blockOf p)) (c.mlen + 512) d :=
  ⟨_, executes_wrblk_job hb p rfl rfl (jobAt_processEffect _), (hashedTo_withBlock hb p).process (withBlock_blk p c)⟩

/-- WRBLK, FINAL and POLL compress the padded blocks of the tail into H (R89, R115). -/
theorem executes_tail {m : Bytes} (hm : m.length < 64) :
    ∃ d, Executes c (wrblk m ++ [cmdOp (.final (BitVec.ofNat 7 m.length)), .poll]) d ∧
      HashedTo c ((blocksOf (padtail m (c.mlen + bitLength m))).foldl compress c.h) (c.mlen + bitLength m) d ∧
      d.dvalid = true ∧ d.done = true := by
  have hj := jobAt_finalEffect (BitVec.ofNat 7 m.length) { withBlock m c with done := false }
  have hwf : (Instr.final (BitVec.ofNat 7 m.length)).wellFormed = true :=
    decide_eq_true (by rw [BitVec.toNat_ofNat]; omega)
  obtain ⟨-, -, -, hdone, hv, -⟩ := hj.afterJob.result
  exact ⟨_, executes_wrblk_job hb m hwf rfl hj, (hashedTo_withBlock hb m).final hm (withBlock_blk m c), hv, hdone⟩

end

/-- The chunks of a message and its tail, at an idle core, compress the blocks of the padded message into H; the
length field counts on from MLEN (R89, R103). -/
theorem executes_messageOps (m : Bytes) {c : CoreState} (hb : busy c = false) :
    ∃ d, Executes c (messageOps m) d ∧
      HashedTo c ((blocksOf (padtail m (c.mlen + bitLength m))).foldl compress c.h) (c.mlen + bitLength m) d ∧
      d.dvalid = true ∧ d.done = true := by
  induction m using chunk_induction generalizing c with
  | tail m hm => rw [messageOps_of_lt hm]; exact executes_tail hb hm
  | chunk p m hp ih =>
    obtain ⟨d, hexec, hd⟩ := executes_chunk hb p
    obtain ⟨e, hexec', he, hfin⟩ := ih hd.idle
    rw [hd.mlen_eq, hd.h_eq, BitVec.add_assoc, ← bitLength_append hp, ← List.foldl_cons (f := compress),
      ← blocksOf_padtail_append hp] at he
    rw [messageOps_append hp]
    exact ⟨e, hexec.append hexec', hd.trans he, hfin⟩

/-! ### SHA1MSG (R125) -/

/-- SHA1MSG at an idle core compresses the blocks of the padded message into H, from the initial value. -/
theorem executes_sha1msg (m : Bytes) {c : CoreState} (hb : busy c = false) :
    ∃ d, Executes c (sha1msg m) d ∧ HashedTo c ((blocksOf (pad m)).foldl compress iv) (bitLength m) d ∧
      d.dvalid = true ∧ d.done = true := by
  have hinit := executes_cmdOp hb (.init 0)
  rw [coreAfter_accepted (check_eq_none_of_idle hb rfl rfl), effectOf] at hinit
  have hinit' : HashedTo c iv 0 (initEffect { c with done := false }) :=
    ⟨hb, by simp, by simp, by simp, by simp, by simp⟩
  obtain ⟨d, hexec, hd, hfin⟩ := executes_messageOps m hinit'.idle
  rw [initEffect_mlen, zero_add, initEffect_h, ← pad] at hd
  exact ⟨d, hinit.append hexec, hinit'.trans hd, hfin⟩

/-- Settles O57: the run of SHA1MSG with no operation after it. -/
theorem sha1ProcedureComputesSha1 : Obligations.Sha1ProcedureComputesSha1 := by
  intro m s hb hp hr
  obtain ⟨d, hexec, hd, hv, hdone⟩ := executes_sha1msg m hb
  obtain ⟨k, t, hrun, rfl, hpt, -⟩ := hexec s [] rfl (by rw [hp, List.append_nil]) hr
  exact ⟨k, t, hrun, hpt, hd.idle, hv, hdone, hd.mlen_eq, by rw [hd.h_eq, sha1], hd.err_eq, hd.errcode_eq⟩

end Sys2Proof
end

section
/-! PROOFS. What the key reaches (41_hmac.md R159): every step is one move that the machine's visible part decides, so
two machines that show the same make the same move, and no move takes K further than the hashes. -/

namespace Sys2Proof

open Machine

/-! ### The moves of the machine (R12) -/

/-- What one step does to the core and to what the host has read. -/
inductive Move where
  | keep
  | read (off : Nat)
  | write (off : Nat) (v : Word)
  | round
  | reset

namespace Move

/-- The core after a move. -/
def core : Move → CoreState → CoreState
  | .keep, c | .read _, c => c
  | .write off v, c => coreAfterWrite (regAt off) v c
  | .round, c => coreStep c
  | .reset, _ => CoreState.reset

/-- What the host reads of the core in a move. -/
def reads : Move → CoreState → List (Nat × Word)
  | .read off, c => [(off, regRead off c)]
  | .keep, _ | .write _ _, _ | .round, _ | .reset, _ => []

/-- The state after a move that leaves the host the operations `ops`. -/
def apply (m : Move) (ops : List HostOp) (s : State) : State where
  core := m.core s.core
  prog := ops
  turns := s.turns.tail
  reads := s.reads ++ m.reads s.core

/-- The accesses of a move are aligned, and a write is the host's next operation (R53, R54). -/
def PossibleAt (s : State) : Move → Prop
  | .read off => off % 4 = 0
  | .write off v => nextTurn s = .host ∧ ∃ size addr ops, s.prog = .wr size addr v :: ops ∧
      windowOffset size addr = some off
  | .keep | .round | .reset => True

end Move

/-- The two machines have the same operations and turns before them, and the same BUSY and irq. -/
structure SameControl (s s' : State) : Prop where
  prog_eq : s'.prog = s.prog
  turns_eq : s'.turns = s.turns
  busy_eq : busy s'.core = busy s.core
  irq_eq : irq s'.core = irq s.core

theorem SameControl.refl (s : State) : SameControl s s := ⟨rfl, rfl, rfl, rfl⟩

theorem SameControl.nextTurn_eq {s s' : State} (h : SameControl s s') : nextTurn s' = nextTurn s := by
  rw [nextTurn, h.turns_eq, h.busy_eq, ← nextTurn]

/-- A host turn that goes on is one move, for every machine with the same control. -/
theorem exists_move_of_hostTurn {s t : State} (hn : nextTurn s = .host) (h : hostTurn (popTurn s) = .next t) :
    ∃ (m : Move) (ops : List HostOp), m.PossibleAt s ∧
      ∀ s', SameControl s s' → step s' = .next (m.apply ops s') := by
  obtain ⟨hp, -⟩ | ⟨size, addr, off, ops, hp, ho, -⟩ | ⟨size, addr, off, v, ops, hp, ho, -⟩ | ⟨ops, hp, -⟩ |
    ⟨ops, hp, -⟩ := hostTurn_cases h <;> rw [popTurn_prog] at hp
  · refine ⟨.keep, [], trivial, fun s' hc => ?_⟩
    have hp' := hc.prog_eq.trans hp
    rw [step_host (hc.nextTurn_eq.trans hn), hostTurn, popTurn_prog, hp']
    simp [Move.apply, Move.core, Move.reads, popTurn, hp']
  · refine ⟨.read off, ops, (aligned_of_windowOffset ho).1, fun s' hc => ?_⟩
    rw [step_rd (hc.nextTurn_eq.trans hn) (hc.prog_eq.trans hp) ho]
    rfl
  · refine ⟨.write off v, ops, ⟨hn, size, addr, ops, hp, ho⟩, fun s' hc => ?_⟩
    rw [step_wr (hc.nextTurn_eq.trans hn) (hc.prog_eq.trans hp) ho, writeReg_eq]
    simp [Move.apply, Move.core, Move.reads]
  · refine ⟨.read 0x08, if busy s.core then s.prog else ops, rfl, fun s' hc => ?_⟩
    rw [step_poll (hc.nextTurn_eq.trans hn) (hc.prog_eq.trans hp), hc.busy_eq, hc.prog_eq]
    rfl
  · refine ⟨.keep, if irq s.core then ops else s.prog, trivial, fun s' hc => ?_⟩
    rw [step_waitIrq (hc.nextTurn_eq.trans hn) (hc.prog_eq.trans hp), hc.irq_eq, hc.prog_eq]
    simp [Move.apply, Move.core, Move.reads]

/-- A turn of the core is one move, for every machine with the same control. -/
theorem exists_move_of_coreTurn {s : State} (hn : nextTurn s = .core) :
    ∃ m : Move, m.PossibleAt s ∧ ∀ s', SameControl s s' → step s' = .next (m.apply s.prog s') := by
  cases hb : busy s.core with
  | true =>
    refine ⟨.round, trivial, fun s' hc => ?_⟩
    rw [step_core (hc.nextTurn_eq.trans hn), coreTurn, popTurn_core, hc.busy_eq, hb, if_pos rfl]
    simp [Move.apply, Move.core, Move.reads, popTurn, hc.prog_eq]
  | false =>
    refine ⟨.keep, trivial, fun s' hc => ?_⟩
    rw [step_core (hc.nextTurn_eq.trans hn), coreTurn, popTurn_core, hc.busy_eq, hb, if_neg (by simp)]
    simp [Move.apply, Move.core, Move.reads, popTurn, hc.prog_eq]

/-- A step that goes on is one move, for every machine with the same control. -/
theorem exists_move {s t : State} (h : step s = .next t) :
    ∃ (m : Move) (ops : List HostOp), m.PossibleAt s ∧
      ∀ s', SameControl s s' → step s' = .next (m.apply ops s') := by
  obtain ⟨hn, -⟩ | ⟨hn, -⟩ | ⟨hn, h⟩ := step_cases h
  · obtain ⟨m, hm⟩ := exists_move_of_coreTurn hn
    exact ⟨m, s.prog, hm⟩
  · refine ⟨.reset, s.prog, trivial, fun s' hc => ?_⟩
    rw [step_resetInput (hc.nextTurn_eq.trans hn), resetTurn, popTurn, hc.prog_eq]
    simp [Move.apply, Move.core, Move.reads]
  · exact exists_move_of_hostTurn hn h

/-- Two machines with the same control make the same move. -/
theorem exists_common_move {s s' t : State} (hc : SameControl s s') (h : step s = .next t) :
    ∃ (m : Move) (ops : List HostOp), m.PossibleAt s ∧ t = m.apply ops s ∧ step s' = .next (m.apply ops s') := by
  obtain ⟨m, ops, hm, hall⟩ := exists_move h
  exact ⟨m, ops, hm, Host.Outcome.next.inj (h.symm.trans (hall s (.refl s))), hall s' hc⟩

/-- A relation of cores that rejections and writes of INTEN and BLK keep is kept by every register write, when the
two cores check commands alike and the acceptance of the written command keeps it. -/
theorem coreAfterWrite_related {R : CoreState → CoreState → Prop}
    (hreject : ∀ e c d, R c d → R (reject e c) (reject e d))
    (hinten : ∀ (v : BitVec 2) c d, R c d → R { c with inten := v } { d with inten := v })
    (hblk : ∀ (i : Fin 16) v c d, R c d → R { c with blk := c.blk.set i v } { d with blk := d.blk.set i v })
    {c d : CoreState} (h : R c d) (hcheck : ∀ i, check i d = check i c) {r : Reg} {v : Word}
    (haccept : ∀ i, r = .cmd → decode v = .cmd i → check i c = none →
      R (effectOf i { c with done := false }) (effectOf i { d with done := false })) :
    R (coreAfterWrite r v c) (coreAfterWrite r v d) := by
  cases r with
  | cmd =>
    rw [coreAfterWrite, coreAfterWrite, coreAfterWord, coreAfterWord]
    cases hd : decode v with
    | illegal why => exact hreject _ c d h
    | cmd i =>
      cases hi : check i c with
      | some e =>
        simp only [coreAfter_rejected hi, coreAfter_rejected ((hcheck i).trans hi)]
        exact hreject e c d h
      | none =>
        simp only [coreAfter_accepted hi, coreAfter_accepted ((hcheck i).trans hi)]
        exact haccept i rfl hd hi
  | inten => exact hinten _ c d h
  | blk i => exact hblk i v c d h
  | id | status | mlenLo | mlenHi | digest i | reserved off => exact h

/-! ### Cores that differ in K and what is computed from it -/

section
variable {c d : CoreState} (h : SameButHashes c d)
include h

theorem SameButHashes.busy_eq : busy d = busy c := by
  rw [Bool.eq_iff_iff, busy_eq_true_iff, busy_eq_true_iff, ← List.length_pos_iff, ← List.length_pos_iff, h.1]

theorem SameButHashes.irq_eq : irq d = irq c := by
  obtain ⟨-, -, -, -, -, -, hdone, herr, -, hinten⟩ := (sameButHashes_iff c d).mp h
  rw [irq, hdone, herr, hinten, ← irq]

theorem SameButHashes.status_eq : status d = status c := by
  obtain ⟨hq, ht, -, -, -, hdv, hdone, herr, hcode, -⟩ := (sameButHashes_iff c d).mp h
  rw [status, h.busy_eq, hdv, hdone, herr, hcode, ht, hq, ← status]

/-- No register but DIGEST shows K, H, A..E, WS or the contents of the queued blocks. -/
theorem SameButHashes.readReg_eq {r : Reg} (hr : ∀ i, r ≠ .digest i) : readReg r d = readReg r c := by
  obtain ⟨-, -, -, hblk, hmlen, -, -, -, -, hinten⟩ := (sameButHashes_iff c d).mp h
  cases r with
  | digest i => exact absurd rfl (hr i)
  | status => exact h.status_eq
  | blk i => rw [readReg, readReg, hblk]
  | inten => rw [readReg, readReg, hinten]
  | mlenLo | mlenHi => rw [readReg, readReg, hmlen]
  | id | cmd | reserved off => rfl

theorem SameButHashes.check_eq (i : Instr) : check i d = check i c := by
  obtain ⟨-, -, -, -, -, hdv, -⟩ := (sameButHashes_iff c d).mp h
  rw [check, h.busy_eq, hdv, ← check]

theorem SameButHashes.reject (e : ErrCode) : SameButHashes (reject e c) (reject e d) := by
  rw [sameButHashes_iff] at h ⊢
  simp [reject_errcode, h]

/-- Jobs of equally many blocks start alike. -/
theorem SameButHashes.start {bs bs' : List Block} (hlen : bs'.length = bs.length) (fin : Bool) :
    SameButHashes (start bs fin c) (start bs' fin d) := by
  rw [sameButHashes_iff] at h
  cases bs with
  | nil =>
    obtain rfl := List.eq_nil_of_length_eq_zero hlen
    exact (sameButHashes_iff _ _).mpr (by simp [Machine.start, h])
  | cons b rest =>
    obtain ⟨b', rest', rfl⟩ := List.exists_cons_of_length_eq_add_one hlen
    exact (sameButHashes_iff _ _).mpr (by simpa [h] using hlen)

theorem SameButHashes.endBlock : SameButHashes (endBlock c) (endBlock d) := by
  have hlen : d.q.tail.length = c.q.tail.length := by rw [List.length_tail, List.length_tail, h.1]
  rw [sameButHashes_iff] at h
  cases htail : c.q.tail with
  | nil =>
    rw [htail] at hlen
    rw [endBlock_last htail, endBlock_last (List.eq_nil_of_length_eq_zero hlen), sameButHashes_iff]
    simp [h]
  | cons b rest =>
    rw [htail] at hlen
    obtain ⟨b', rest', htail'⟩ := List.exists_cons_of_length_eq_add_one hlen
    rw [htail'] at hlen
    rw [endBlock_next htail, endBlock_next htail', sameButHashes_iff]
    simpa [h] using hlen

theorem SameButHashes.coreStep : SameButHashes (coreStep c) (coreStep d) := by
  have hround : SameButHashes (roundStep c) (roundStep d) := by
    rw [sameButHashes_iff] at h ⊢
    simpa using h
  obtain ⟨-, ht, -⟩ := (sameButHashes_iff c d).mp h
  by_cases hlt : c.t.toNat < 79
  · rw [coreStep_of_lt hlt, coreStep_of_lt (by rwa [ht])]
    rw [sameButHashes_iff] at hround ⊢
    simpa [ht] using hround
  · rw [coreStep_of_ge (Nat.le_of_not_lt hlt), coreStep_of_ge (by rw [ht]; omega)]
    exact hround.endBlock

/-- The bit counter and DVALID set alike, whatever H becomes. -/
theorem SameButHashes.withMessage (x y : Chain) {l l' : BitVec 64} (hl : l' = l) :
    SameButHashes { c with h := x, mlen := l, dvalid := false } { d with h := y, mlen := l', dvalid := false } := by
  rw [sameButHashes_iff] at h ⊢
  simp [h, hl]

/-- What the rule of a command shows outside the hashes comes from what the core shows there: K gives the contents
of the blocks of HMAC_INNER and HMAC_OUTER, and their number is fixed. -/
theorem SameButHashes.effectOf (i : Instr) : SameButHashes (effectOf i c) (effectOf i d) := by
  obtain ⟨-, -, -, hblk, hmlen, -⟩ := (sameButHashes_iff c d).mp h
  cases i with
  | process n =>
    simp only [Machine.effectOf, processEffect]
    exact (h.withMessage c.h d.h (by rw [hmlen])).start (by simp) false
  | final n =>
    simp only [Machine.effectOf, finalEffect]
    exact (h.withMessage c.h d.h (by rw [hmlen])).start (by rw [hmlen, blkPrefix, hblk, ← blkPrefix]) true
  | hmacInner n =>
    simp only [Machine.effectOf, hmacInnerEffect]
    exact (h.withMessage iv iv rfl).start (by simp) false
  | hmacOuter n =>
    simp only [Machine.effectOf, hmacOuterEffect]
    exact (h.withMessage iv iv rfl).start (by simp [length_outerTail]) true
  | sreset n => exact ⟨rfl, rfl⟩
  | init n | keyload n | keydig n | clrerr n =>
    rw [sameButHashes_iff] at h ⊢
    simp [Machine.effectOf, h]

theorem SameButHashes.coreAfterWrite (r : Reg) (v : Word) :
    SameButHashes (coreAfterWrite r v c) (coreAfterWrite r v d) := by
  refine coreAfterWrite_related (fun e _ _ h => h.reject e) (fun v c d h => ?_) (fun i v c d h => ?_) h h.check_eq
    fun i _ _ _ => SameButHashes.effectOf ?_ i
  all_goals
    rw [sameButHashes_iff] at h ⊢
    simp [h]

/-- No move takes K further than the hashes. -/
theorem SameButHashes.move (m : Move) : SameButHashes (m.core c) (m.core d) := by
  cases m with
  | keep | read off => exact h
  | write off v => exact h.coreAfterWrite _ v
  | round => exact h.coreStep
  | reset => exact ⟨rfl, rfl⟩

end

theorem SameButDigests.sameControl {s s' : State} (h : SameButDigests s s') : SameControl s s' := by
  obtain ⟨hp, ht, -, hc⟩ := h
  exact ⟨hp, ht, hc.busy_eq, hc.irq_eq⟩

theorem offset_of_regAt_digest {off : Nat} {i : Fin 5} (h4 : off % 4 = 0) (h : regAt off = .digest i) :
    0x80 ≤ off ∧ off ≤ 0x90 := by
  unfold regAt at h
  split_ifs at h with _ _ _ _ _ _ _ hdig
  omega

/-- The host reads the same of both cores everywhere but at DIGEST. -/
theorem sameReads_move {s : State} {m : Move} (hm : m.PossibleAt s) {r r' : List (Nat × Word)}
    (hr : SameReadsButDigests r r') {c d : CoreState} (hc : SameButHashes c d) :
    SameReadsButDigests (r ++ m.reads c) (r' ++ m.reads d) := by
  cases m with
  | read off =>
    refine hr.append ?_
    by_cases hdig : ∃ i, regAt off = .digest i
    · obtain ⟨i, hi⟩ := hdig
      exact .inr (offset_of_regAt_digest hm hi)
    · exact .inl (hc.readReg_eq fun i hi => hdig ⟨i, hi⟩).symm
  | keep | write off v | round | reset => simpa [Move.reads] using hr

/-- Settles O60: the two machines make the same move, which keeps the cores and the reads related. -/
theorem keyReachesHostOnlyThroughDigests : Obligations.KeyReachesHostOnlyThroughDigests := by
  refine ⟨fun c d h => ⟨fun r hr => h.readReg_eq hr, h.irq_eq⟩, fun s s' t h hs => ?_⟩
  obtain ⟨m, ops, hm, rfl, hs'⟩ := exists_common_move h.sameControl hs
  obtain ⟨-, ht, hr, hc⟩ := h
  exact ⟨_, hs', rfl, congrArg List.tail ht, sameReads_move hm hr hc, hc.move m⟩

/-! ### Cores that differ in K alone -/

/-- The two cores are equal but for the key register K. -/
def SameCoreButKey (c d : CoreState) : Prop := ∃ k, d = { c with k := k }

/-- The commands whose rule uses K (R156, R157). -/
def usesKey : Instr → Bool
  | .hmacInner _ | .hmacOuter _ => true
  | .init _ | .process _ | .final _ | .keyload _ | .keydig _ | .clrerr _ | .sreset _ => false

theorem usesKey_cases {i : Instr} (h : usesKey i = true) : ∃ n, i = .hmacInner n ∨ i = .hmacOuter n := by
  cases i <;> simp [usesKey] at h ⊢

theorem readReg_withKey (r : Reg) (c : CoreState) (k : Block) : readReg r { c with k := k } = readReg r c := by
  cases r <;> rfl

section
variable {c d : CoreState} (h : SameCoreButKey c d)
include h

theorem SameCoreButKey.sameButHashes : SameButHashes c d := by
  obtain ⟨k, rfl⟩ := h
  exact ⟨rfl, rfl⟩

theorem SameCoreButKey.reject (e : ErrCode) : SameCoreButKey (reject e c) (reject e d) := by
  obtain ⟨k, rfl⟩ := h
  refine ⟨k, ?_⟩
  unfold Machine.reject
  split <;> rfl

theorem SameCoreButKey.start (bs : List Block) (fin : Bool) : SameCoreButKey (start bs fin c) (start bs fin d) := by
  obtain ⟨k, rfl⟩ := h
  exact ⟨k, by cases bs <;> rfl⟩

theorem SameCoreButKey.endBlock : SameCoreButKey (endBlock c) (endBlock d) := by
  obtain ⟨k, rfl⟩ := h
  refine ⟨k, ?_⟩
  cases htail : c.q.tail with
  | nil => rw [endBlock_last htail, endBlock_last (c := { c with k := k }) htail]
  | cons b rest => rw [endBlock_next htail, endBlock_next (c := { c with k := k }) htail]; rfl

theorem SameCoreButKey.coreStep : SameCoreButKey (coreStep c) (coreStep d) := by
  have hround : SameCoreButKey (roundStep c) (roundStep d) := by
    obtain ⟨k, rfl⟩ := h
    exact ⟨k, rfl⟩
  obtain ⟨k, rfl⟩ := h
  by_cases hlt : c.t.toNat < 79
  · rw [coreStep_of_lt hlt, coreStep_of_lt (c := { c with k := k }) hlt]
    exact ⟨k, rfl⟩
  · rw [coreStep_of_ge (Nat.le_of_not_lt hlt), coreStep_of_ge (c := { c with k := k }) (Nat.le_of_not_lt hlt)]
    exact hround.endBlock

/-- The rule of a command that does not use K leaves K alone or writes it from other state. -/
theorem SameCoreButKey.effectOf {i : Instr} (hi : usesKey i = false) :
    SameCoreButKey (effectOf i c) (effectOf i d) := by
  obtain ⟨k, rfl⟩ := h
  cases i with
  | hmacInner n | hmacOuter n => cases hi
  | process n =>
    simp only [Machine.effectOf, processEffect]
    exact SameCoreButKey.start ⟨k, rfl⟩ _ _
  | final n =>
    simp only [Machine.effectOf, finalEffect]
    exact SameCoreButKey.start ⟨k, rfl⟩ _ _
  | keyload n => exact ⟨keyBlock (blkPrefix n c), rfl⟩
  | keydig n => exact ⟨keyBlock (digestBytes c.h), rfl⟩
  | sreset n => exact ⟨CoreState.reset.k, rfl⟩
  | init n | clrerr n => exact ⟨k, rfl⟩

/-- A move that accepts no command that uses K keeps the difference to K alone. -/
theorem SameCoreButKey.move {s : State} (hs : s.core = c) {m : Move} (hm : m.PossibleAt s)
    (hno : ∀ i, AcceptsCommand s i → usesKey i = false) : SameCoreButKey (m.core c) (m.core d) := by
  subst hs
  cases m with
  | keep | read off => exact h
  | round => exact h.coreStep
  | reset => exact ⟨CoreState.reset.k, rfl⟩
  | write off v =>
    obtain ⟨hn, size, addr, ops, hp, ho⟩ := hm
    refine coreAfterWrite_related (fun e _ _ h => h.reject e) ?_ ?_ h h.sameButHashes.check_eq
      fun i hr hd hcheck => SameCoreButKey.effectOf ?_ (hno i ⟨⟨hn, size, addr, v, ops, hp, ?_, hd⟩, hcheck⟩)
    · rintro v c _ ⟨k, rfl⟩
      exact ⟨k, rfl⟩
    · rintro i v c _ ⟨k, rfl⟩
      exact ⟨k, rfl⟩
    · obtain ⟨k, rfl⟩ := h
      exact ⟨k, rfl⟩
    · rw [ho, offset_of_regAt_cmd hr]

end

theorem reads_withKey (m : Move) (c : CoreState) (k : Block) : m.reads { c with k := k } = m.reads c := by
  cases m with
  | read off => rw [Move.reads, Move.reads, regRead, readReg_withKey, ← regRead]
  | keep | write off v | round | reset => rfl

/-- Settles O56: the two machines make the same move, and read the same in it. -/
theorem keyStaysConfidential : Obligations.KeyStaysConfidential := by
  refine ⟨fun r c k => ⟨readReg_withKey r c k, rfl⟩, fun s s' t h hs => ?_⟩
  obtain ⟨m, ops, hm, rfl, hs'⟩ := exists_common_move h.sameButDigests.sameControl hs
  obtain ⟨k, rfl⟩ := h
  have hreads := reads_withKey m s.core k
  refine ⟨_, hs', congrArg (s.reads ++ ·) hreads, rfl, fun hno => ?_⟩
  have hkey (i : Instr) (ha : AcceptsCommand s i) : usesKey i = false := by
    by_contra hi
    obtain ⟨n, hn⟩ := usesKey_cases (Bool.eq_true_of_not_eq_false hi)
    exact hno ⟨i, n, ha, hn⟩
  obtain ⟨k', hk'⟩ := SameCoreButKey.move (c := s.core) ⟨k, rfl⟩ rfl hm hkey
  exact ⟨k', by simp [Move.apply, hk', hreads]⟩

end Sys2Proof
end

section
/-! PROOFS. The HMAC commands (41_hmac.md Part 2, R154 to R157), and HMACKEY and HMACMSG as whole procedures (R158). -/

namespace Sys2Proof

open Machine

/-! ### Keys (R151, R154, R155) -/

theorem toList_keyBlock {s : Bytes} (h : s.length ≤ 64) : (keyBlock s).toList = s ++ zeros (64 - s.length) :=
  toList_blockOf (by simp; omega)

/-- Settles O24: the rule of KEYLOAD at its acceptance. -/
theorem keyloadResult : Obligations.KeyloadResult := by
  intro n s hn hb
  have hlen : (blkPrefix n s.core).length = n.toNat := length_blkPrefix hn s.core
  have hkey := toList_keyBlock (s := blkPrefix n s.core) (by omega)
  rw [hlen] at hkey
  have hcheck : check (.keyload n) s.core = none := check_eq_none_of_idle hb (decide_eq_true hn) rfl
  refine ⟨keyBlock (blkPrefix n s.core), hkey, ?_⟩
  rw [exec_of_accepted hcheck]
  rfl

/-- An idle core with a finished digest accepts every well-formed command (R181). -/
theorem check_eq_none_of_valid {i : Instr} {c : CoreState} (hb : busy c = false) (hw : i.wellFormed = true)
    (hv : c.dvalid = true) : check i c = none :=
  (check_eq_none_iff i c).mpr ⟨.inl hb, hw, fun _ => hv⟩

/-- Settles O25: the rule of KEYDIG at its acceptance. -/
theorem keydigResult : Obligations.KeydigResult := by
  intro s hb hv
  refine ⟨keyBlock (digestBytes s.core.h), toList_keyBlock (by simp), ?_⟩
  rw [exec_of_accepted (check_eq_none_of_valid hb rfl hv)]
  rfl

/-! ### The jobs of HMAC_INNER and HMAC_OUTER (R156, R157) -/

/-- HMAC_INNER starts a job of one block from the initial value, which leaves DVALID at 0 (R156). -/
theorem jobAt_hmacInnerEffect (c : CoreState) : JobAt iv [innerPad c.k] false 80 (hmacInnerEffect c) :=
  jobAt_start (List.cons_ne_nil _ _) false { c with h := iv, mlen := 512, dvalid := false }

/-- Settles O26: the rule of HMAC_INNER at its acceptance, and its job. -/
theorem hmacInnerResult : Obligations.HmacInnerResult := by
  intro s hb
  have hat := jobAt_hmacInnerEffect { s.core with done := false }
  refine ⟨innerPad s.core.k, _, fun i => getElem_maskBlock _ _ _ i.isLt,
    exec_of_accepted (check_eq_none_of_idle hb rfl rfl), rfl, hat.busy_until, ?_⟩
  obtain ⟨hq, hh, -, hdone, hv, -⟩ := hat.afterJob.result
  exact ⟨(busy_eq_false_iff _).mpr hq, hdone, hv, by simp [effectOf], hh⟩

/-- HMAC_OUTER starts a job of two blocks from the initial value, which leaves DVALID at 1 (R157). -/
theorem jobAt_hmacOuterEffect (c : CoreState) :
    JobAt iv (outerPad c.k :: outerTail c.h) true 160 (hmacOuterEffect c) := by
  have hat := jobAt_start (List.cons_ne_nil (outerPad c.k) (outerTail c.h)) true
    { c with h := iv, mlen := 672, dvalid := false }
  rwa [List.length_cons, length_outerTail] at hat

/-- The padded inner digest is one block (R103, R157). -/
theorem exists_outerTail (h : Chain) :
    ∃ b : Block, outerTail h = [b] ∧ b.toList = digestBytes h ++ [0x80] ++ zeros 35 ++ bytes64 672 := by
  rw [outerTail, padtail, padZeros_of_le (by simp), length_digestBytes]
  exact exists_blocksOf_one (by simp)

/-- The blocks of a padded message that begins with the block `b` are `b` and the blocks of the rest, whose length
field counts the bits of `b` too (R103). -/
theorem blocksOf_pad_append (b : Block) (m : Bytes) :
    blocksOf (pad (b.toList ++ m)) = b :: blocksOf (padtail m (512 + bitLength m)) := by
  have hb : b.toList.length = 64 := by simp
  rw [pad, bitLength_append hb, blocksOf_padtail_append hb, blockOf_toList]

/-- The two blocks of HMAC_OUTER are those of its padded message, outerPad and the inner digest (R152, R157). -/
theorem blocksOf_pad_outer (b : Block) (h : Chain) :
    blocksOf (pad (b.toList ++ digestBytes h)) = b :: outerTail h := by
  have hlen : 512 + bitLength (digestBytes h) = 672 := by rw [bitLength, length_digestBytes]; rfl
  rw [blocksOf_pad_append, hlen, outerTail]

/-- Settles O27: the rule of HMAC_OUTER at its acceptance, and its job. -/
theorem hmacOuterResult : Obligations.HmacOuterResult := by
  intro s hb hv
  obtain ⟨b, htail, hbytes⟩ := exists_outerTail s.core.h
  have hat := jobAt_hmacOuterEffect { s.core with done := false }
  refine ⟨outerPad s.core.k, b, _, fun i => getElem_maskBlock _ _ _ i.isLt, hbytes,
    exec_of_accepted (check_eq_none_of_valid hb rfl hv), ?_, hat.busy_until, ?_⟩
  · rw [effectOf, hmacOuterEffect, htail, start, load]
  · obtain ⟨hq, hh, -, hdone, hdv, -⟩ := hat.afterJob.result
    rw [sha1, blocksOf_pad_outer]
    exact ⟨(busy_eq_false_iff _).mpr hq, hdone, hdv, by simp [effectOf], congrArg digestBytes hh⟩

/-! ### HMACKEY (R89, R151) -/

/-- The core `d` is idle with the prepared key `k` in K, and the error latch of `c`. -/
structure KeyedTo (c : CoreState) (k : Bytes) (d : CoreState) : Prop where
  idle : busy d = false
  k_eq : d.k = keyprep k
  err_eq : d.err = c.err
  errcode_eq : d.errcode = c.errcode

section
variable {c : CoreState} (hb : busy c = false)
include hb

/-- A command accepted by an idle core runs its rule. -/
theorem executes_accepted {i : Instr} (hc : check i c = none) :
    Executes c [cmdOp i] (effectOf i { c with done := false }) :=
  coreAfter_accepted hc ▸ executes_cmdOp hb i

/-- A key of more than 64 bytes: its digest, loaded by KEYDIG. -/
theorem executes_longKey {k : Bytes} (hk : 64 < k.length) :
    ∃ d, Executes c (sha1msg k ++ [cmdOp (.keydig 0)]) d ∧ KeyedTo c k d := by
  obtain ⟨d, hexec, hd, hv, -⟩ := executes_sha1msg k hb
  have hcmd := executes_accepted hd.idle (check_eq_none_of_valid (i := .keydig 0) hd.idle rfl hv)
  have hkey : keyBlock (digestBytes d.h) = keyprep k := by
    rw [keyprep, if_pos hk, keyBlock, length_digestBytes, hd.h_eq, ← sha1]
  exact ⟨_, hexec.append hcmd, ⟨by simpa [effectOf] using hd.idle, by simpa [effectOf] using hkey,
    by simpa [effectOf] using hd.err_eq, by simpa [effectOf] using hd.errcode_eq⟩⟩

/-- A key of at most 64 bytes, loaded by KEYLOAD. -/
theorem executes_shortKey {k : Bytes} (hk : k.length ≤ 64) :
    ∃ d, Executes c (wrblk k ++ [cmdOp (.keyload (BitVec.ofNat 7 k.length))]) d ∧ KeyedTo c k d := by
  have hn : (BitVec.ofNat 7 k.length).toNat = k.length := by
    rw [BitVec.toNat_ofNat, Nat.mod_eq_of_lt (by omega)]
  have hb' := (busy_withBlock k c).trans hb
  have hcheck : check (.keyload (BitVec.ofNat 7 k.length)) (withBlock k c) = none :=
    check_eq_none_of_idle hb' (decide_eq_true (hn.trans_le hk)) rfl
  have hkey : keyBlock (blkPrefix (BitVec.ofNat 7 k.length) { withBlock k c with done := false }) = keyprep k := by
    rw [keyprep, if_neg (by omega), blkPrefix, hn, withBlock_blk, bytesOfWords_blockWords, toList_blockOf_of_le hk,
      List.take_left, keyBlock]
  exact ⟨_, (executes_wrblk hb k).append (executes_accepted hb' hcheck),
    ⟨by simpa [effectOf] using hb, by simpa [effectOf] using hkey, by simp [effectOf], by simp [effectOf]⟩⟩

/-- HMACKEY at an idle core leaves keyprep(k) in K. -/
theorem executes_hmackey (k : Bytes) : ∃ d, Executes c (hmackey k) d ∧ KeyedTo c k d := by
  rw [hmackey]
  split
  · exact executes_longKey hb ‹_›
  · exact executes_shortKey hb (by omega)

/-! ### HMACMSG (R89, R153) -/

/-- HMAC_INNER and POLL leave the compression of the inner pad in H, and 512 bits counted. -/
theorem executes_hmacInner :
    ∃ d, Executes c [cmdOp (.hmacInner 0), .poll] d ∧ HashedTo c (compress iv (innerPad c.k)) 512 d := by
  have hat := jobAt_hmacInnerEffect { c with done := false }
  obtain ⟨hq, hh, -⟩ := hat.afterJob.result
  exact ⟨_, executes_job hb (check_eq_none_of_idle hb rfl rfl) hat,
    ⟨(busy_eq_false_iff _).mpr hq, hh, by simp [effectOf], by simp [effectOf], by simp [effectOf],
      by simp [effectOf]⟩⟩

/-- HMAC_OUTER and POLL, with a finished inner digest, leave the digest of the outer pad and that digest. -/
theorem executes_hmacOuter (hv : c.dvalid = true) :
    ∃ d, Executes c [cmdOp (.hmacOuter 0), .poll] d ∧
      HashedTo c ((blocksOf (pad ((outerPad c.k).toList ++ digestBytes c.h))).foldl compress iv) 672 d ∧
      d.dvalid = true ∧ d.done = true := by
  have hat := jobAt_hmacOuterEffect { c with done := false }
  obtain ⟨hq, hh, -, hdone, hdv, -⟩ := hat.afterJob.result
  rw [blocksOf_pad_outer]
  exact ⟨_, executes_job hb (check_eq_none_of_valid hb rfl hv) hat,
    ⟨(busy_eq_false_iff _).mpr hq, hh, by simp [effectOf], by simp [effectOf], by simp [effectOf],
      by simp [effectOf]⟩, hdv, hdone⟩

/-- The inner hash of HMACMSG: the digest of the inner pad and the message. -/
theorem executes_innerHash (m : Bytes) :
    ∃ d, Executes c ([cmdOp (.hmacInner 0), .poll] ++ messageOps m) d ∧
      HashedTo c ((blocksOf (pad ((innerPad c.k).toList ++ m))).foldl compress iv) (512 + bitLength m) d ∧
      d.dvalid = true := by
  obtain ⟨d, hexec, hd⟩ := executes_hmacInner hb
  obtain ⟨e, hexec', he, hv, -⟩ := executes_messageOps m hd.idle
  rw [hd.h_eq, hd.mlen_eq, ← List.foldl_cons (f := compress), ← blocksOf_pad_append] at he
  exact ⟨e, hexec.append hexec', hd.trans he, hv⟩

/-- HMACMSG at an idle core leaves the HMAC of the message under the key in K. -/
theorem executes_hmacmsg {k : Bytes} (hk : c.k = keyprep k) (m : Bytes) :
    ∃ h d, Executes c (hmacmsg m) d ∧ HashedTo c h 672 d ∧ digestBytes h = hmac k m ∧
      d.dvalid = true ∧ d.done = true := by
  obtain ⟨d, hexec, hd, hv⟩ := executes_innerHash hb m
  obtain ⟨e, hexec', he, hfin⟩ := executes_hmacOuter hd.idle hv
  refine ⟨_, e, hexec.append hexec', hd.trans he, ?_, hfin⟩
  rw [← sha1, hd.k_eq, hd.h_eq, ← sha1, hk, hmac]

end

/-- Settles O58: the run of HMACKEY and then HMACMSG, with no operation after them. -/
theorem hmacProcedureComputesHmac : Obligations.HmacProcedureComputesHmac := by
  intro k m s hb hp hr
  obtain ⟨d, hexec, hd⟩ := executes_hmackey hb k
  obtain ⟨h, e, hexec', he, hh, hv, hdone⟩ := executes_hmacmsg hd.idle hd.k_eq m
  obtain ⟨j, t, hrun, rfl, hpt, -⟩ := hexec.append hexec' s [] rfl (by rw [hp, List.append_nil]) hr
  exact ⟨j, t, hrun, hpt, he.idle, hv, hdone, he.mlen_eq, he.k_eq.trans hd.k_eq, by rw [he.h_eq, hh],
    he.err_eq.trans hd.err_eq, he.errcode_eq.trans hd.errcode_eq⟩

end Sys2Proof
end

section
/-! PROOFS. CLRERR, SRESET and the rejection of a command (42_control.md, R182, R184, R185). -/

namespace Sys2Proof

open Machine

/-! ### Rejected commands (R182, R203) -/

/-- A command a check stops is rejected with the code of that check (R182). -/
theorem exec_of_rejected {i : Instr} {s : State} {e : ErrCode} (h : check i s.core = some e) :
    exec i s = .next (rejectedWith (errBits e) s) := by
  rw [exec_eq, coreAfter_rejected h, rejectedWith_errBits]

/-- A busy core rejects every command but SRESET as BUSY, before any other check (R181, R206). -/
theorem check_eq_some_busy {i : Instr} {c : CoreState} (hb : busy c = true) (hi : isSreset i = false) :
    check i c = some .busy := by
  rw [check, hb, hi]
  rfl

/-! ### CLRERR and SRESET (R184, R185, R230) -/

/-- Settles O28: the rule of CLRERR at its acceptance, and the check a busy core stops it at. -/
theorem clrerrResult : Obligations.ClrerrResult := by
  intro s
  constructor
  · intro hb
    rw [exec_of_accepted (check_eq_none_of_idle hb rfl rfl)]
    rfl
  · intro hb
    exact exec_of_rejected (check_eq_some_busy hb rfl)

/-- Settles O29: the rule of SRESET, which passes the checks busy or idle, and the turn of the reset input. -/
theorem sresetResult : Obligations.SresetResult := by
  constructor
  · intro s
    have hcheck : check (.sreset 0) s.core = none := (check_eq_none_iff _ _).mpr ⟨.inr rfl, rfl, nofun⟩
    rw [exec_of_accepted hcheck]
    rfl
  · intro s ts hts
    rw [step_resetInput (nextTurn_of_cons hts), popTurn, hts]
    rfl

/-! ### The error latch beside a running job (R182, R207) -/

/-- The core with the error latch in the state given, and every other element as it was (R33). -/
def withLatch (err : Bool) (code : BitVec 4) (c : CoreState) : CoreState := { c with err := err, errcode := code }

section
variable {c : CoreState} (e : ErrCode)

theorem reject_of_latched (h : c.err = true) : reject e c = c := by rw [reject, if_pos h]

theorem reject_of_clear (h : c.err = false) : reject e c = withLatch true (errBits e) c := by
  simp [reject, h, withLatch]

end

section
variable (err : Bool) (code : BitVec 4) (c : CoreState)

/-- The end of a block neither reads nor writes the latch (R123). -/
theorem endBlock_withLatch : endBlock (withLatch err code c) = withLatch err code (endBlock c) := by
  cases htail : c.q.tail with
  | nil =>
    rw [endBlock_last htail]
    exact endBlock_last (c := withLatch err code c) htail
  | cons b rest =>
    rw [endBlock_next htail]
    exact endBlock_next (c := withLatch err code c) htail

/-- A core step neither reads nor writes the latch (R122). -/
theorem coreStep_withLatch : coreStep (withLatch err code c) = withLatch err code (coreStep c) := by
  rcases Nat.lt_or_ge c.t.toNat 79 with hlt | hge
  · rw [coreStep_of_lt hlt]
    exact coreStep_of_lt (c := withLatch err code c) hlt
  · rw [coreStep_of_ge hge, ← endBlock_withLatch]
    exact coreStep_of_ge (c := withLatch err code c) hge

end

/-- A rejection before a core step is the same rejection after it: the latch is set or clear alike at both. -/
theorem coreStep_reject (e : ErrCode) (c : CoreState) : coreStep (reject e c) = reject e (coreStep c) := by
  cases h : c.err with
  | true => rw [reject_of_latched e h, reject_of_latched e ((coreStep_err c).trans h)]
  | false => rw [reject_of_clear e h, reject_of_clear e ((coreStep_err c).trans h), coreStep_withLatch]

/-- Settles O40, by induction on the core steps. -/
theorem rejectionDoesNotAlterJob : Obligations.RejectionDoesNotAlterJob := by
  intro c e k
  induction k with
  | zero => rw [coreSteps_zero, coreSteps_zero]
  | succ k ih => rw [coreSteps_succ', coreSteps_succ', ih, coreStep_reject]

end Sys2Proof
end

section
/-! PROOFS. Errors and the interrupt (60_exceptions.md): which check stops a command and in what order (R203 to R206),
the error latch (R207), and the irq line (R210, R211). -/

namespace Sys2Proof

open Machine

/-! ### The checks in their order (R181, R206) -/

theorem isSreset_eq_false {i : Instr} (h : ∀ n, i ≠ .sreset n) : isSreset i = false := by
  cases i with
  | sreset n => exact absurd rfl (h n)
  | _ => rfl

section
variable {i : Instr} {c : CoreState}

/-- An idle core lets every command pass the first check, and SRESET passes it in any state. -/
theorem busy_check_passed (hb : busy c = false ∨ isSreset i = true) : (busy c && !isSreset i) = false := by
  obtain hb | hb := hb
  · rw [hb, Bool.false_and]
  · rw [hb, Bool.not_true, Bool.and_false]

/-- With BUSY passed, an operand out of range is rejected as BADLEN. -/
theorem check_eq_some_badlen (hb : busy c = false ∨ isSreset i = true) (hw : i.wellFormed = false) :
    check i c = some .badlen := by
  simp [check, busy_check_passed hb, badCount_eq_not_wellFormed, hw]

/-- With BUSY and BADLEN passed, a missing digest is rejected as SEQ. -/
theorem check_eq_some_seq (hb : busy c = false ∨ isSreset i = true) (hw : i.wellFormed = true)
    (hd : needsDigest i = true) (hv : c.dvalid = false) : check i c = some .seq := by
  simp [check, busy_check_passed hb, badCount_eq_not_wellFormed, hw, hd, hv]

end

section
variable {i : Instr} {s : State}

/-- The rejection as BUSY, whatever the operand (R203). -/
theorem exec_rejected_busy (hb : busy s.core = true) (hi : isSreset i = false) :
    exec i s = .next (rejectedWith 2 s) :=
  exec_of_rejected (check_eq_some_busy hb hi)

/-- The rejection as BADLEN, for SRESET also while busy (R204). -/
theorem exec_rejected_badlen (hb : busy s.core = false ∨ isSreset i = true) (hw : i.wellFormed = false) :
    exec i s = .next (rejectedWith 3 s) :=
  exec_of_rejected (check_eq_some_badlen hb hw)

/-- The rejection as SEQ (R205). -/
theorem exec_rejected_seq (hb : busy s.core = false ∨ isSreset i = true) (hw : i.wellFormed = true)
    (hd : needsDigest i = true) (hv : s.core.dvalid = false) : exec i s = .next (rejectedWith 4 s) :=
  exec_of_rejected (check_eq_some_seq hb hw hd hv)

end

/-- The checks of a decoded command, first failure first. -/
theorem exec_eq_checks (i : Instr) (s : State) : exec i s =
    if busy s.core = true ∧ isSreset i = false then .next (rejectedWith 2 s)
    else if i.wellFormed = false then .next (rejectedWith 3 s)
    else if needsDigest i = true ∧ s.core.dvalid = false then .next (rejectedWith 4 s)
    else exec i s := by
  by_cases hbusy : busy s.core = true ∧ isSreset i = false
  · rw [if_pos hbusy, exec_rejected_busy hbusy.1 hbusy.2]
  · have hb : busy s.core = false ∨ isSreset i = true := by
      rwa [Decidable.not_and_iff_not_or_not, Bool.not_eq_true, Bool.not_eq_false] at hbusy
    rw [if_neg hbusy]
    split_ifs with hw hseq
    · exact exec_rejected_badlen hb hw
    · exact exec_rejected_seq hb (Bool.eq_true_of_not_eq_false hw) hseq.1 hseq.2
    · rfl

/-- Settles O32: the chain is that of the checks on the decoded command, and each example of R206 fails two checks
and reports the earlier one. -/
theorem rejectionPriority : Obligations.RejectionPriority := by
  refine ⟨fun v s => ⟨fun why hv => issue_of_illegal hv s, fun i hv => ?_⟩, fun s _ => ?_, fun s hb => ?_,
    fun s hb _ => ?_⟩
  · exact (issue_of_decode hv s).trans (exec_eq_checks i s)
  · have hdecode : decode 0x00008002 = .illegal .reservedBits := by decide
    exact issue_of_illegal hdecode s
  · have hdecode : decode 0x00004103 = .cmd (.final 65) := decode_encode (.final 65)
    exact (issue_of_decode hdecode s).trans (exec_rejected_busy hb rfl)
  · have hdecode : decode 0x00000105 = .cmd (.keydig 1) := decode_encode (.keydig 1)
    exact (issue_of_decode hdecode s).trans (exec_rejected_badlen (.inl hb) rfl)

/-- Settles O30: BUSY is the first check of a decoded command. -/
theorem busyRejected : Obligations.BusyRejected :=
  fun _ _ hb hi => exec_rejected_busy hb (isSreset_eq_false hi)

/-- Settles O14: the operand of each command named is out of its range in the opcode map (R82). -/
theorem badCountRejected : Obligations.BadCountRejected := by
  refine fun n s => ⟨fun hn hb => ?_, fun hn => ?_, fun hn hb i hi => ?_⟩
  · have hlarge : decide (n.toNat ≤ 64) = false := decide_eq_false (Nat.not_le.mpr hn)
    exact ⟨exec_rejected_badlen (.inl hb) hlarge, exec_rejected_badlen (.inl hb) hlarge⟩
  · exact exec_rejected_badlen (.inr rfl) (beq_false_of_ne hn)
  · have hw : i.wellFormed = false := by fin_cases hi <;> exact beq_false_of_ne hn
    exact exec_rejected_badlen (.inl hb) hw

/-- Settles O31: both commands pass the checks before SEQ. -/
theorem sequenceErrorRejected : Obligations.SequenceErrorRejected :=
  fun _ hb hv => ⟨exec_rejected_seq (.inl hb) rfl rfl hv, exec_rejected_seq (.inl hb) rfl rfl hv⟩

/-! ### The error latch (R207) -/

/-- Settles O45: of the changes a step can make, only a reset and the rules of CLRERR and SRESET clear the latch, and
a rejection while it is set changes nothing. -/
theorem firstErrorKept : Obligations.FirstErrorKept := by
  intro s t hs herr
  cases coreChange_of_step hs with
  | reset hn _ => exact .inr (.inl hn)
  | accept i ha ht =>
    by_cases hi : ∃ n, i = .clrerr n ∨ i = .sreset n
    · obtain ⟨n, hn⟩ := hi
      exact .inr (.inr ⟨i, n, ha, hn⟩)
    · obtain ⟨he, hcode⟩ := effectOf_latch { s.core with done := false } (i := i)
        (fun n h => hi ⟨n, .inr h⟩) (fun n h => hi ⟨n, .inl h⟩)
      exact .inl (by rw [ht]; exact ⟨he.trans herr, hcode⟩)
  | reject e ht => exact .inl (by rw [ht, reject_of_latched e herr]; exact ⟨herr, rfl⟩)
  | keep ht | round _ _ ht | writeInten v ht | writeBlk j v _ ht => exact .inl (by simp [ht, herr])

/-! ### The irq line (R210, R211) -/

/-- A write of INTEN puts its two low bits in the enables and touches nothing else (R211). -/
theorem regWrite_inten (v : Word) (s : State) :
    regWrite 0x0C v s = .next { s with core := { s.core with inten := v.extractLsb' 0 2 } } := rfl

/-- The line after a write of INTEN: the sources behind the new enables. -/
theorem irq_of_inten_write (v : Word) (c : CoreState) :
    irq { c with inten := v.extractLsb' 0 2 } = ((v[0] && c.done) || (v[1] && c.err)) := by
  simp [irq]

/-- Settles O53: the line is low after reset because INTEN is 0 there, and the write of INTEN is the law above. -/
theorem irqLevel : Obligations.IrqLevel :=
  ⟨fun c => by simp [irq], rfl, fun s v => ⟨_, regWrite_inten v s, rfl, rfl, irq_of_inten_write v s.core⟩,
    fun n c => by simp [hostIrqInput]⟩

end Sys2Proof
end

section
/-! PROOFS. Reset and hazards (70_reset_and_hazards.md): how long an accepted command keeps the core busy (R242), what
changes K (R238), and a message hashed right after reset (R233). -/

namespace Sys2Proof

open Machine

/-! ### Core steps from acceptance to BUSY = 0 (R242) -/

/-- BUSY stays 1 for exactly `n` core steps from `c` on. -/
def BusyFor (n : Nat) (c : CoreState) : Prop :=
  busy (coreSteps n c) = false ∧ ∀ k < n, busy (coreSteps k c) = true

theorem busyFor_zero {c : CoreState} (hq : c.q = []) : BusyFor 0 c :=
  ⟨by rw [coreSteps_zero, busy_eq_false_iff, hq], by simp⟩

/-- A job keeps the core busy for the core steps it has left. -/
theorem JobAt.busyFor {h : Chain} {bs : List Block} {v : Bool} {n : Nat} {c : CoreState} (hj : JobAt h bs v n c) :
    BusyFor n c :=
  ⟨hj.afterJob.busy_eq, hj.busy_until⟩

/-- FINAL n has 80 core steps a block, and its padded tail is two blocks from n = 56 on (R103, R115). -/
theorem coreStepsOf_final {n : BitVec 7} (hn : n.toNat ≤ 64) (c : CoreState) :
    coreStepsOf (.final n) = 80 * (finalBlocks n c).length := by
  rw [coreStepsOf, length_finalBlocks_eq hn]
  split <;> rfl

/-- An accepted command leaves no job, or one that has just started. -/
theorem busyFor_accepted {i : Instr} {c : CoreState} (hc : check i c = none) :
    BusyFor (coreStepsOf i) (effectOf i { c with done := false }) := by
  cases i with
  | init n | keyload n | keydig n | clrerr n =>
    have hq := queue_eq_nil_of_accepted hc rfl
    exact busyFor_zero (by simpa [effectOf])
  | sreset n => exact busyFor_zero rfl
  | process n => exact (jobAt_processEffect _).busyFor
  | hmacInner n => exact (jobAt_hmacInnerEffect _).busyFor
  | hmacOuter n => exact (jobAt_hmacOuterEffect _).busyFor
  | final n =>
    obtain ⟨-, hw, -⟩ := (check_eq_none_iff _ _).mp hc
    rw [coreStepsOf_final (of_decide_eq_true hw) { c with done := false }]
    exact (jobAt_finalEffect n _).busyFor

/-- Settles O33: the core after the acceptance is that of the command's rule. -/
theorem commandStepCounts : Obligations.CommandStepCounts :=
  fun _ _ hc => ⟨_, exec_of_accepted hc, busyFor_accepted hc⟩

/-! ### Who changes K (R26, R238) -/

/-- Only the rules of KEYLOAD, KEYDIG and SRESET write K. -/
theorem exists_keyCommand_of_effectOf_k_ne {i : Instr} {c : CoreState} (h : (effectOf i c).k ≠ c.k) :
    ∃ n, i = .keyload n ∨ i = .keydig n ∨ i = .sreset n := by
  by_contra hi
  exact h (effectOf_k c (fun n hn => hi ⟨n, .inr (.inr hn)⟩) (fun n hn => hi ⟨n, .inl hn⟩)
    (fun n hn => hi ⟨n, .inr (.inl hn)⟩))

/-- Settles O43: of the changes a step can make, a reset and the rules of the three commands reach K. -/
theorem keyChangesOnlyByKeyCommands : Obligations.KeyChangesOnlyByKeyCommands := by
  intro s t hs hne
  cases coreChange_of_step hs with
  | reset hn _ => exact .inl hn
  | accept i ha ht =>
    obtain ⟨n, hn⟩ := exists_keyCommand_of_effectOf_k_ne (i := i) (c := { s.core with done := false })
      fun h => hne (by rw [ht, h])
    exact .inr ⟨i, n, ha, hn⟩
  | keep ht | round _ _ ht | reject e ht | writeInten v ht | writeBlk j v _ ht => simp [ht] at hne

/-! ### A message right after reset (R233) -/

/-- The chunks and the tail of a message, at the core reset has left, compress the blocks of the padded message into H
from the initial value: reset leaves H and MLEN as INIT does. -/
theorem executes_messageOps_reset (m : Bytes) :
    ∃ d, Executes CoreState.reset (messageOps m) d ∧
      HashedTo CoreState.reset ((blocksOf (pad m)).foldl compress iv) (bitLength m) d ∧ d.dvalid = true := by
  obtain ⟨d, hexec, hd, hv, -⟩ := executes_messageOps m (c := CoreState.reset) rfl
  have hmlen : CoreState.reset.mlen + bitLength m = bitLength m := zero_add _
  rw [hmlen, ← pad] at hd
  exact ⟨d, hexec, hd, hv⟩

/-- Settles O59: the run of the message's operations with no operation after them. -/
theorem hashAfterResetNeedsNoInit : Obligations.HashAfterResetNeedsNoInit := by
  intro m ts hr
  obtain ⟨d, hexec, hd, hv⟩ := executes_messageOps_reset m
  obtain ⟨k, t, hrun, rfl, hpt, -⟩ :=
    hexec { State.reset with prog := messageOps m, turns := ts } [] rfl (List.append_nil _).symm hr
  exact ⟨k, t, hrun, hpt, hd.idle, hv, by rw [hd.h_eq, sha1]⟩

end Sys2Proof
end
